-- ==== Sys2Proof/Word.lean ====
section
/-!
DEFINITION. Word.lean: the widths of 00_scope.md rule R17 (u8, u16 and s16, u32).
A 16-bit operand is kept as its pattern; its reading as s16 or u16 is in Machine/Operands.lean.
-/

namespace Sys2Proof

/-- `u8`: a packet byte, a framebuffer byte, a glyph-ROM byte (R17). -/
abbrev Byte := BitVec 8

/-- A 16-bit operand's pattern: a coordinate (s16) or a radius (u16) (R17, R93). -/
abbrev Half := BitVec 16

/-- `u32`: a host register (R17, R64). -/
abbrev Word := BitVec 32

end Sys2Proof
end

