-- ==== Sys2Proof/Config.lean ====
section
/-!
DEFINITION. Config.lean: what the build of a block fixes (00_scope.md rules R10 to R15, 10_state.md rule R46), what the
spec leaves open (93_implementation_defined.md section 4), and the one free value (U5).
`Build` is plain data, so that a claim or a test may speak of any build. `Config.build` is the build of `State.reset`:
its open parameters are one opaque record with the constraints of 93 section 4 proved, so nothing can be proved of their values.
-/

namespace Sys2Proof

/-- `VARIANT`, fixed at build (R10). -/
inductive Variant where
  /-- 1 bit per pixel, packed 4 by 2 (R2). -/
  | mono1
  /-- 2 bits per pixel, packed 2 by 2 (R2). -/
  | gray2
  deriving DecidableEq, Repr

/-- STATUS.ERR_CODE's values, codes 0 to 7 (R301). Codes 8 to 15 are reserved and never held: there is no constructor. -/
inductive ErrCode where
  /-- 0 NONE. -/
  | noError
  /-- 1 BAD_OPCODE. -/
  | badOpcode
  /-- 2 BAD_LENGTH. -/
  | badLength
  /-- 3 UNSUPPORTED. -/
  | unsupported
  /-- 4 BAD_STATE. -/
  | badState
  /-- 5 BAD_OPERAND. -/
  | badOperand
  /-- 6 TRANSPORT_FAIL. -/
  | transportFail
  /-- 7 OVERRUN. -/
  | overrun
  deriving DecidableEq, Repr

/-- `FONT_LAYOUT` (R13). -/
inductive FontLayout where
  /-- Row-major (R262). -/
  | horizontal
  /-- Column-major (R263). -/
  | vertical
  deriving DecidableEq, Repr

/-- `GLYPH_BG`: what a 0 bit of a glyph does (R266). -/
inductive GlyphBg where
  /-- Nothing is plotted for it (the default). -/
  | transparent
  /-- It is plotted in the opposite colour: the spec's OPAQUE. -/
  | solid
  deriving DecidableEq, Repr

/-- The font parameters of R13, one font per block. -/
structure Font where
  /-- `FONT_FIRST`. -/
  first : Byte
  /-- `FONT_LAST`. -/
  last : Byte
  /-- `FONT_BPC`, bytes per glyph record. -/
  bpc : Nat
  /-- `FONT_W`, in pixels. -/
  width : Nat
  /-- `FONT_H`, in pixels. -/
  height : Nat
  /-- `FONT_LAYOUT`. -/
  layout : FontLayout
  /-- `GLYPH_SPACING`, in pixels. -/
  spacing : Nat
  /-- `GLYPH_BG`. -/
  bg : GlyphBg
  /-- `GLYPH_ROM`. -/
  rom : List Byte
  deriving DecidableEq, Repr

/-- `⌈n / 8⌉`: bytes for `n` bits (R260, R262, R263). -/
def bytesFor (n : Nat) : Nat := (n + 7) / 8

/-- Bytes of a glyph record that the bit fetch can read (R260). -/
def Font.recordBytes (f : Font) : Nat :=
  match f.layout with
  | .horizontal => f.height * bytesFor f.width
  | .vertical => f.width * bytesFor f.height

/-- The length of the glyph-ROM space (R60, R63). -/
def Font.romLen (f : Font) : Nat := (f.last.toNat + 1 - f.first.toNat) * f.bpc

/-- The constraints of R13 and R260 on a font. -/
abbrev Font.Conforming (f : Font) : Prop :=
  f.first.toNat ≤ f.last.toNat ∧ 1 ≤ f.bpc ∧
  (1 ≤ f.width ∧ f.width ≤ 255) ∧ (1 ≤ f.height ∧ f.height ≤ 255) ∧ f.spacing ≤ 255 ∧
  f.recordBytes ≤ f.bpc ∧ f.rom.length = f.romLen

/-- One entry (command byte, payload bytes, post-delay in ms) of INIT_TABLE (R14, R176); the delay is 0 unless the table's data says
otherwise (R176). -/
structure InitEntry where
  cmd : Byte
  payload : List Byte
  delay : Nat := 0
  deriving DecidableEq, Repr

/-- The command bytes of R172: parameters, whose default values are the decided ones. -/
structure CommandBytes where
  slpin : Byte := 0x10
  slpout : Byte := 0x11
  invoff : Byte := 0x20
  invon : Byte := 0x21
  dispoff : Byte := 0x28
  dispon : Byte := 0x29
  caset : Byte := 0x2A
  raset : Byte := 0x2B
  ramwr : Byte := 0x2C
  hpm : Byte := 0x38
  lpm : Byte := 0x39
  deriving DecidableEq, Repr

/-- The parameters of one block instance, fixed at build and never changed by an operation (R46).
GRAY2's panel is held as its size in bytes, so that its even size in pixels (R11) holds by construction (log 18). -/
structure Build where
  /-- `VARIANT` (R10). -/
  variant : Variant
  /-- `GRAY_PANEL_W / 2` (R11). -/
  grayDataW : Nat
  /-- `GRAY_PANEL_H / 2` (R11). -/
  grayDataH : Nat
  /-- The font (R13). -/
  font : Font
  /-- `INIT_TABLE[VARIANT]` (R176). -/
  initTable : List InitEntry
  /-- `COL_WINDOW` (R181). -/
  colWindow : List Byte
  /-- `ROW_WINDOW` (R181). -/
  rowWindow : List Byte
  /-- The command bytes (R172). -/
  cmds : CommandBytes
  /-- `T_SLPIN`, in ms (R173). -/
  tSlpin : Nat
  /-- `T_WAKE`, in ms (R173). -/
  tWake : Nat
  /-- `T_LPM_EXIT`, in ms (R173). -/
  tLpmExit : Nat
  /-- `BLOCK_BASE` (R15, R64). -/
  blockBase : Nat
  deriving DecidableEq, Repr

/-- `PKT_MAX`: the packet assembly buffer's capacity (R15). -/
def Config.pktMax : Nat := 262

/-- `T_RST_LOW`, in ms (R173). -/
def Config.tRstLow : Nat := 10

/-- `T_RST_SETTLE`, in ms (R173). -/
def Config.tRstSettle : Nat := 10

/-- `PANEL_W` (R11): 168 for MONO1, open and even for GRAY2. -/
def Build.panelW (b : Build) : Nat :=
  match b.variant with
  | .mono1 => 168
  | .gray2 => 2 * b.grayDataW

/-- `PANEL_H` (R11): 384 for MONO1, open and even for GRAY2. -/
def Build.panelH (b : Build) : Nat :=
  match b.variant with
  | .mono1 => 384
  | .gray2 => 2 * b.grayDataH

/-- `K1`, the horizontal packing factor (R2). -/
def Build.k1 (b : Build) : Nat :=
  match b.variant with
  | .mono1 => 4
  | .gray2 => 2

/-- `K2`, the vertical packing factor: 2 in both variants (R2). -/
def Build.k2 (_ : Build) : Nat := 2

/-- `DATA_W = PANEL_W / K1` (R11). -/
def Build.dataW (b : Build) : Nat := b.panelW / b.k1

/-- `DATA_H = PANEL_H / K2` (R11). -/
def Build.dataH (b : Build) : Nat := b.panelH / b.k2

/-- `FB_LEN = DATA_W * DATA_H` (R11). -/
def Build.fbLen (b : Build) : Nat := b.dataW * b.dataH

/-- The entries of INIT_TABLE in the eighteen groups of R176, each group a list of any length; group 14, whose two entries are decided
(R176), is made from the windows by `InitGroups.table`. -/
structure InitGroups where
  /-- Groups 1 to 8, before the sleep-out: NVM load, booster, gate/source voltages, oscillator, frame rate,
  gate/EQ timing, panel setting, gate-line count. -/
  g1 : List InitEntry
  g2 : List InitEntry
  g3 : List InitEntry
  g4 : List InitEntry
  g5 : List InitEntry
  g6 : List InitEntry
  g7 : List InitEntry
  g8 : List InitEntry
  /-- Group 9, sleep-out. -/
  g9 : List InitEntry
  /-- Groups 10 to 13: source-voltage select, memory-access control, data format, gamma mode. -/
  g10 : List InitEntry
  g11 : List InitEntry
  g12 : List InitEntry
  g13 : List InitEntry
  /-- Group 15: auto-power-down enable. -/
  g15 : List InitEntry
  /-- Group 16, display-on. -/
  g16 : List InitEntry
  /-- Group 17, inversion-off. -/
  g17 : List InitEntry
  /-- Group 18: clear-RAM enable. -/
  g18 : List InitEntry
  deriving DecidableEq, Repr

/-- Group 14 (R176): the column window, then the row window. -/
def windowGroup (c : CommandBytes) (col row : List Byte) : List InitEntry := [⟨c.caset, col, 0⟩, ⟨c.raset, row, 0⟩]

/-- The table the groups make, in R176's order. -/
def InitGroups.table (g : InitGroups) (c : CommandBytes) (col row : List Byte) : List InitEntry :=
  g.g1 ++ g.g2 ++ g.g3 ++ g.g4 ++ g.g5 ++ g.g6 ++ g.g7 ++ g.g8 ++ g.g9 ++ g.g10 ++ g.g11 ++ g.g12 ++ g.g13 ++
  windowGroup c col row ++ g.g15 ++ g.g16 ++ g.g17 ++ g.g18

/-- "each group one or more entries", and what R176 fixes of the entries of groups 9, 16 and 17 (log 24). -/
abbrev InitGroups.Conforming (g : InitGroups) (c : CommandBytes) : Prop :=
  (∀ l ∈ [g.g1, g.g2, g.g3, g.g4, g.g5, g.g6, g.g7, g.g8, g.g9, g.g10, g.g11, g.g12, g.g13, g.g15, g.g16, g.g17, g.g18],
    l ≠ []) ∧
  (∀ e ∈ g.g9, e.cmd = c.slpout ∧ e.payload = [] ∧ 120 ≤ e.delay) ∧
  (∀ e ∈ g.g16, e.cmd = c.dispon) ∧
  (∀ e ∈ g.g17, e.cmd = c.invoff)

/-- The constraints of 93_implementation_defined.md section 4 (and R11, R13, R64, R176) on a build.
No meaning asks for it: it is a premise for claims that need it (log 24). -/
structure Build.Conforming (b : Build) : Prop where
  grayW : 1 ≤ b.grayDataW ∧ 2 * b.grayDataW ≤ 32767
  grayH : 1 ≤ b.grayDataH ∧ 2 * b.grayDataH ≤ 32767
  font : b.font.Conforming
  initTable : ∃ g : InitGroups, g.Conforming b.cmds ∧ b.initTable = g.table b.cmds b.colWindow b.rowWindow
  blockBase : b.blockBase % 16 = 0

/-- The open parameters of 93 section 4 with their constraints. The field values written here make the type inhabited and
nothing else: `Config.openParams` below is opaque. -/
structure OpenParams where
  grayDataW : Nat := 1
  grayDataH : Nat := 1
  font : Font := ⟨0, 0, 1, 1, 1, .horizontal, 0, .transparent, [0]⟩
  groups : InitGroups :=
    { g1 := [⟨0, [], 0⟩], g2 := [⟨0, [], 0⟩], g3 := [⟨0, [], 0⟩], g4 := [⟨0, [], 0⟩], g5 := [⟨0, [], 0⟩], g6 := [⟨0, [], 0⟩]
      g7 := [⟨0, [], 0⟩], g8 := [⟨0, [], 0⟩], g9 := [⟨0x11, [], 120⟩], g10 := [⟨0, [], 0⟩], g11 := [⟨0, [], 0⟩]
      g12 := [⟨0, [], 0⟩], g13 := [⟨0, [], 0⟩], g15 := [⟨0, [], 0⟩], g16 := [⟨0x29, [], 0⟩], g17 := [⟨0x20, [], 0⟩]
      g18 := [⟨0, [], 0⟩] }
  colWindow : List Byte := []
  rowWindow : List Byte := []
  tSlpin : Nat := 0
  tWake : Nat := 0
  tLpmExit : Nat := 0
  /-- `BLOCK_BASE / 16` (R64: 16-byte aligned). -/
  baseBlocks : Nat := 0
  grayOk : (1 ≤ grayDataW ∧ 2 * grayDataW ≤ 32767) ∧ (1 ≤ grayDataH ∧ 2 * grayDataH ≤ 32767) := by decide
  fontOk : font.Conforming := by decide
  /-- With R172's decided command bytes, which `Config.build` has. -/
  groupsOk : groups.Conforming {} := by decide
  deriving Inhabited

/-- DESIGN CHOICE (log 3), safe. The open parameters of the build of `State.reset`: no body, so no value of them can be
evaluated or proved, only their constraints. -/
opaque Config.openParams : OpenParams

/-- The build of `State.reset`. DESIGN CHOICE (log 2): MONO1, the variant whose panel the source gives; unsafe only for a claim
about `State.reset` itself. The command bytes are R172's decided values (log 19) and GLYPH_BG is R266's default (log 20). -/
def Config.build : Build where
  variant := .mono1
  grayDataW := Config.openParams.grayDataW
  grayDataH := Config.openParams.grayDataH
  font :=
    { first := Config.openParams.font.first, last := Config.openParams.font.last, bpc := Config.openParams.font.bpc
      width := Config.openParams.font.width, height := Config.openParams.font.height
      layout := Config.openParams.font.layout, spacing := Config.openParams.font.spacing
      bg := .transparent, rom := Config.openParams.font.rom }
  initTable := Config.openParams.groups.table {} Config.openParams.colWindow Config.openParams.rowWindow
  colWindow := Config.openParams.colWindow
  rowWindow := Config.openParams.rowWindow
  cmds := {}
  tSlpin := Config.openParams.tSlpin
  tWake := Config.openParams.tWake
  tLpmExit := Config.openParams.tLpmExit
  blockBase := 16 * Config.openParams.baseBlocks

/-- FREE VALUE (log 5), safe: the completion, ok (true) or fail (false), that the transport gives when State schedules none
(R174, U5). It is applied to `State.freeCount`, which the machine advances each time it takes one. -/
opaque Config.freeAnswer : Nat → Bool

end Sys2Proof
end

