-- ==== Sys2Proof/Syntax.lean ====
section
/-!
DEFINITION. Syntax.lean: the operations of the block, one constructor per row of spec/opcode_table.json
(30_encoding.md rule R105), with the operands of the row's format (rule R96).
Operand bytes are kept whole (a colour byte, an enable byte, a gray level): what they mean is the machine's
(rules R94, R95, R145). The length byte `n` of the text formats is the length of the character list.
-/

namespace Sys2Proof

/-- One packet's operation and operands (R92, R96, R105). -/
inductive Instr where
  /-- `NOP`, format Z (R189). -/
  | nop
  /-- `CLEAR_ERR`, format Z (R190). -/
  | clearErr
  /-- `PLOT_RAW x, y, cb`, format PB (R143). -/
  | plotRaw (x y : Half) (cb : Byte)
  /-- `DRAW_PIXEL x, y, cb`, format PB (R144). -/
  | drawPixel (x y : Half) (cb : Byte)
  /-- `DRAW_PIXEL_GRAY x, y, g`, format PB, GRAY2 only (R145). -/
  | drawPixelGray (x y : Half) (g : Byte)
  /-- `READ_PIXEL x, y`, format P (R146). -/
  | readPixel (x y : Half)
  /-- `FILL a`, format B (R147). -/
  | fill (a : Byte)
  /-- `SET_ROT a`, format B (R148). -/
  | setRot (a : Byte)
  /-- `INIT`, format Z (R177). -/
  | init
  /-- `DISPLAY`, format Z (R182). -/
  | display
  /-- `HPM`, format Z (R183). -/
  | hpm
  /-- `LPM`, format Z (R184). -/
  | lpm
  /-- `SLEEP eb`, format B (R185, R186). -/
  | sleep (eb : Byte)
  /-- `INVERT eb`, format B (R187). -/
  | invert (eb : Byte)
  /-- `DISPON eb`, format B (R188). -/
  | dispon (eb : Byte)
  /-- `LINE x0, y0, x1, y1, cb`, format PPB (R223). -/
  | line (x0 y0 x1 y1 : Half) (cb : Byte)
  /-- `RECT x0, y0, x1, y1, cb`, format PPB (R225). -/
  | rect (x0 y0 x1 y1 : Half) (cb : Byte)
  /-- `FILL_RECT x0, y0, x1, y1, cb`, format PPB (R226). -/
  | fillRect (x0 y0 x1 y1 : Half) (cb : Byte)
  /-- `CIRCLE cx, cy, r, cb`, format PRB (R228). -/
  | circle (cx cy r : Half) (cb : Byte)
  /-- `FILL_CIRCLE cx, cy, r, cb`, format PRB (R229). -/
  | fillCircle (cx cy r : Half) (cb : Byte)
  /-- `TRIANGLE x0, y0, x1, y1, x2, y2, cb`, format PPPB (R231). -/
  | triangle (x0 y0 x1 y1 x2 y2 : Half) (cb : Byte)
  /-- `FILL_TRIANGLE x0, y0, x1, y1, x2, y2, cb`, format PPPB (R237). -/
  | fillTriangle (x0 y0 x1 y1 x2 y2 : Half) (cb : Byte)
  /-- `DRAW_CHAR x, y, ch, cb`, format PBB (R265). -/
  | drawChar (x y : Half) (ch cb : Byte)
  /-- `DRAW_STRING x, y, cb, "s"`, format PBS (R267). -/
  | drawString (x y : Half) (cb : Byte) (chars : List Byte)
  /-- `STRING_WIDTH "s"`, format S (R268). -/
  | stringWidth (chars : List Byte)
  deriving DecidableEq, Repr

end Sys2Proof
end

