-- ==== Sys2Proof/Machine/State.lean ====
section
/-!
DEFINITION. Machine/State.lean: the state of the block (10_state.md rule R30), the inputs and observations around it, the
reasons a step can stop, and the state after reset (rule R49).
-/

namespace Sys2Proof.Machine

/-- The framebuffer: the bytes that differ from 0x00, its reset value (R35), by rising index. -/
abbrev Memory := List Host.Cell

/-- `PWR` (R33). The codes 5, 6, 7 are never held: there is no constructor. -/
inductive Power where
  | uninitialized
  | initializing
  | highPower
  | lowPower
  | sleeping
  deriving DecidableEq, Repr

/-- A transport event (R170). -/
inductive TxEvent where
  /-- `TxSetup`: the transport configures its bus. -/
  | txSetup
  /-- `Rst(v)`: drive RST_N. -/
  | rst (v : Bool)
  /-- `Delay(ms)`. -/
  | delay (ms : Nat)
  /-- `Cmd(b)`: one frame carrying one command byte. -/
  | cmd (b : Byte)
  /-- `Data(b)`: one frame carrying one data byte. -/
  | data (b : Byte)
  /-- `Burst(bs)`: one frame carrying data bytes in order. -/
  | burst (bs : List Byte)
  deriving DecidableEq, Repr

/-- How an emitted event ended (R170, R174, R340). -/
inductive Ending where
  /-- It completed with ok. -/
  | ok
  /-- It completed with fail. -/
  | fail
  /-- A block reset ended it (R340). -/
  | cut
  deriving DecidableEq, Repr

/-- A packet taken by DOORBELL, with its overflow mark (R91). -/
structure Packet where
  bytes : List Byte
  povf : Bool
  deriving DecidableEq, Repr

/-- `SEQ` (R44): idle, or executing a packet of which `done` transport events have completed; `inFlight` is the event issued
and not yet completed (R170: "issues one transport event and waits for its completion"). -/
inductive Seq where
  | idle
  | exec (packet : Packet) (done : Nat) (inFlight : Option TxEvent)
  deriving DecidableEq, Repr

/-- A host access to the register window: its byte offset from BLOCK_BASE, its width in bytes, and for a write its value
(R64, R65; log 11). -/
inductive HostAccess where
  | read (offset width : Nat)
  | write (offset width : Nat) (value : Word)
  deriving DecidableEq, Repr

/-- What can happen next around the block (R311: the host's accesses and block reset), or that nothing does and it is the
sequencer's turn (log 4). -/
inductive Input where
  | host (a : HostAccess)
  | blockReset
  | turn
  deriving DecidableEq, Repr

/-- The state. The first twelve fields are the block's (R30); the last six are the model's own. -/
structure State where
  /-- `FB` (R35). -/
  fb : Memory
  /-- `ROT` (R32). -/
  rot : BitVec 2
  /-- `PWR` (R33). -/
  pwr : Power
  /-- `STATUS.ERR` (R39). -/
  err : Bool
  /-- `STATUS.ERR_CODE` (R39). -/
  errCode : ErrCode
  /-- `RESULT` (R41). -/
  result : Word
  /-- `PBUF[0 .. PLEN-1]`; `PLEN` is its length (R43; log 10). -/
  pbuf : List Byte
  /-- `POVF` (R43). -/
  povf : Bool
  /-- `SEQ` (R44); STATUS.BUSY is 1 exactly when it is not idle. -/
  seq : Seq
  /-- The pin `RST_N` (R45). -/
  rstN : Bool
  /-- The pin `CS_N` (R45). -/
  csN : Bool
  /-- The pin `DC` (R45). -/
  dc : Bool
  /-- The parameters of the build (R46), which no step changes (log 1). -/
  build : Build
  /-- Inputs still to come, next first (log 4). -/
  inputs : List Input
  /-- The transport's completions still to come, next first, `true` for ok (R174; log 5). -/
  answers : List Bool
  /-- How many free completions were taken (log 5). -/
  freeCount : Nat
  /-- The transport events that have ended, oldest first (R9, R170; log 7). -/
  trace : List (TxEvent × Ending)
  /-- The values answered to host reads, oldest first (R9; log 8). -/
  reads : List Word
  deriving DecidableEq, Repr

/-- Why the machine stops with a fault. No rule of the spec reaches either (R62, D8; 93 V9; log 13). -/
inductive Fault where
  /-- Raised by a framebuffer access at an index outside 0..FB_LEN-1 (R62). Safe: the machine stops where the spec forms no
  such index. -/
  | fbIndex
  /-- Raised by a glyph-ROM access at an index outside the ROM (R62, R63), only in a build whose font does not conform to
  R13 and R260. Safe: the machine stops. -/
  | romIndex
  deriving DecidableEq, Repr

/-- Why the machine refuses to go on. -/
inductive Refusal where
  /-- Raised by an arm of `exec` for an instruction without a meaning. Safe: the machine stops. No arm raises it now. -/
  | notModelled (mnemonic : String)
  /-- Raised by a host access that is not an aligned 32-bit access at offset 0, 4, 8 or 12, which is "outside the block's
  contract; a model refuses it" (R65; 93 V6; log 12). Safe: the machine stops. -/
  | hostAccess
  deriving DecidableEq, Repr

/-- The block of build `b` right after block reset (R49, R340, R342), with nothing scheduled and nothing observed.
DC is "unspecified" there: DESIGN CHOICE low (log 9), unsafe. -/
def State.resetOf (b : Build) : State where
  fb := []
  rot := 0
  pwr := .uninitialized
  err := false
  errCode := .noError
  result := 0
  pbuf := []
  povf := false
  seq := .idle
  rstN := true
  csN := true
  dc := false
  build := b
  inputs := []
  answers := []
  freeCount := 0
  trace := []
  reads := []

/-- The machine right after reset: the block of `Config.build` (log 2, log 3). -/
def State.reset : State := State.resetOf Config.build

end Sys2Proof.Machine
end

