-- ==== Sys2Proof/Machine/Operands.lean ====
section
/-!
DEFINITION. Machine/Operands.lean: what the operand bits mean (30_encoding.md rules R93 to R95), as exact integers
(00_scope.md rules R12, R18, R21).
-/

namespace Sys2Proof.Machine

/-- `sext_16`: a coordinate operand's value, -32768..32767 (R93). -/
def coord (v : Half) : Int := v.toInt

/-- The radius operand's value, 0..65535 (R93). -/
def radius (v : Half) : Nat := v.toNat

/-- The colour operand: on exactly when the byte is not 0 (R94). -/
def colour (cb : Byte) : Bool := decide (cb ≠ 0)

/-- The enable operand: enabled exactly when the byte is not 0 (R95). -/
def enabled (eb : Byte) : Bool := decide (eb ≠ 0)

/-- A logical or physical point (R24). -/
abbrev Point := Int × Int

/-- A point operand. -/
def point (x y : Half) : Point := (coord x, coord y)

end Sys2Proof.Machine
end

