-- ==== Sys2Proof/WellFormed.lean ====
section
/-!
DEFINITION. WellFormed.lean: which operations a packet can carry (30_encoding.md rule R100) and which exist in a variant
(rule R104). Every operand but a string's length is bounded by its width, so one bound is checked.
-/

namespace Sys2Proof

/-- A packet can carry the operation: the character count fits the length byte `n` (R100). -/
def Instr.wellFormed : Instr → Bool
  | .drawString _ _ _ chars => decide (chars.length ≤ 255)
  | .stringWidth chars => decide (chars.length ≤ 255)
  | .nop => true
  | .clearErr => true
  | .plotRaw _ _ _ => true
  | .drawPixel _ _ _ => true
  | .drawPixelGray _ _ _ => true
  | .readPixel _ _ => true
  | .fill _ => true
  | .setRot _ => true
  | .init => true
  | .display => true
  | .hpm => true
  | .lpm => true
  | .sleep _ => true
  | .invert _ => true
  | .dispon _ => true
  | .line _ _ _ _ _ => true
  | .rect _ _ _ _ _ => true
  | .fillRect _ _ _ _ _ => true
  | .circle _ _ _ _ => true
  | .fillCircle _ _ _ _ => true
  | .triangle _ _ _ _ _ _ _ => true
  | .fillTriangle _ _ _ _ _ _ _ => true
  | .drawChar _ _ _ _ => true

/-- The operation's opcode exists in the variant: all do, but DRAW_PIXEL_GRAY only in GRAY2 (R104). -/
def Instr.existsIn (v : Variant) : Instr → Bool
  | .drawPixelGray _ _ _ => decide (v = .gray2)
  | .nop => true
  | .clearErr => true
  | .plotRaw _ _ _ => true
  | .drawPixel _ _ _ => true
  | .readPixel _ _ => true
  | .fill _ => true
  | .setRot _ => true
  | .init => true
  | .display => true
  | .hpm => true
  | .lpm => true
  | .sleep _ => true
  | .invert _ => true
  | .dispon _ => true
  | .line _ _ _ _ _ => true
  | .rect _ _ _ _ _ => true
  | .fillRect _ _ _ _ _ => true
  | .circle _ _ _ _ => true
  | .fillCircle _ _ _ _ => true
  | .triangle _ _ _ _ _ _ _ => true
  | .fillTriangle _ _ _ _ _ _ _ => true
  | .drawChar _ _ _ _ => true
  | .drawString _ _ _ _ => true
  | .stringWidth _ => true

end Sys2Proof
end

