-- ==== Sys2Proof/Decode.lean ====
section
/-!
DEFINITION. Decode.lean: packets to operations and back (30_encoding.md rules R92 to R109).
The opcode map is a list of rows that reads like rule R105; decoding is rule R106, total on every byte list, and refuses by
the error's name. The encoder is written from the same rows and formats.
-/

namespace Sys2Proof

/-! ### Operand assembly (R93) -/

/-- `u8` at byte k. -/
def byteAt (p : List Byte) (k : Nat) : Byte := p.getD k 0

/-- `LE16(p[k], p[k+1])`, the low byte first: a coordinate's or a radius's pattern. -/
def halfAt (p : List Byte) (k : Nat) : Half := byteAt p (k + 1) ++ byteAt p k

/-- `n` character codes from byte k. -/
def charsAt (p : List Byte) (k n : Nat) : List Byte := (p.drop k).take n

/-- The two bytes of a 16-bit operand, low byte first. -/
def halfBytes (v : Half) : List Byte := [v.extractLsb' 0 8, v.extractLsb' 8 8]

/-! ### Formats (R96 to R103, R107) -/

/-- The ten packet formats (R96). -/
inductive Format where
  | z | b | p | pb | pbb | pbs | s | ppb | prb | pppb
  deriving DecidableEq, Repr

/-- `Length(op, p, PLEN)` for a packet of this format: `none` where the packet is too short to have its `n` (R107). -/
def Format.length (f : Format) (p : List Byte) : Option Nat :=
  match f with
  | .z => some 1
  | .b => some 2
  | .p => some 5
  | .pb => some 6
  | .pbb => some 7
  | .pbs => if p.length < 7 then none else some (7 + (byteAt p 6).toNat)
  | .s => if p.length < 2 then none else some (2 + (byteAt p 1).toNat)
  | .ppb => some 10
  | .prb => some 8
  | .pppb => some 14

/-! ### The opcode map (R105) -/

/-- One row of rule R105: the opcode, the mnemonic, the format, and the operation a packet of that format makes. -/
structure OpRow where
  opcode : Byte
  mnemonic : String
  format : Format
  make : List Byte → Instr

/-- R105, the framebuffer operations and the housekeeping ones. -/
def opRowsPixel : List OpRow :=
  [⟨0x00, "NOP", .z, fun _ => .nop⟩,
   ⟨0x01, "CLEAR_ERR", .z, fun _ => .clearErr⟩,
   ⟨0x10, "PLOT_RAW", .pb, fun p => .plotRaw (halfAt p 1) (halfAt p 3) (byteAt p 5)⟩,
   ⟨0x11, "DRAW_PIXEL", .pb, fun p => .drawPixel (halfAt p 1) (halfAt p 3) (byteAt p 5)⟩,
   ⟨0x12, "DRAW_PIXEL_GRAY", .pb, fun p => .drawPixelGray (halfAt p 1) (halfAt p 3) (byteAt p 5)⟩,
   ⟨0x13, "READ_PIXEL", .p, fun p => .readPixel (halfAt p 1) (halfAt p 3)⟩,
   ⟨0x14, "FILL", .b, fun p => .fill (byteAt p 1)⟩,
   ⟨0x15, "SET_ROT", .b, fun p => .setRot (byteAt p 1)⟩]

/-- R105, the protocol operations. -/
def opRowsProtocol : List OpRow :=
  [⟨0x20, "INIT", .z, fun _ => .init⟩,
   ⟨0x21, "DISPLAY", .z, fun _ => .display⟩,
   ⟨0x22, "HPM", .z, fun _ => .hpm⟩,
   ⟨0x23, "LPM", .z, fun _ => .lpm⟩,
   ⟨0x24, "SLEEP", .b, fun p => .sleep (byteAt p 1)⟩,
   ⟨0x25, "INVERT", .b, fun p => .invert (byteAt p 1)⟩,
   ⟨0x26, "DISPON", .b, fun p => .dispon (byteAt p 1)⟩]

/-- R105, the rasterizer operations. -/
def opRowsRaster : List OpRow :=
  [⟨0x30, "LINE", .ppb, fun p => .line (halfAt p 1) (halfAt p 3) (halfAt p 5) (halfAt p 7) (byteAt p 9)⟩,
   ⟨0x31, "RECT", .ppb, fun p => .rect (halfAt p 1) (halfAt p 3) (halfAt p 5) (halfAt p 7) (byteAt p 9)⟩,
   ⟨0x32, "FILL_RECT", .ppb, fun p => .fillRect (halfAt p 1) (halfAt p 3) (halfAt p 5) (halfAt p 7) (byteAt p 9)⟩,
   ⟨0x33, "CIRCLE", .prb, fun p => .circle (halfAt p 1) (halfAt p 3) (halfAt p 5) (byteAt p 7)⟩,
   ⟨0x34, "FILL_CIRCLE", .prb, fun p => .fillCircle (halfAt p 1) (halfAt p 3) (halfAt p 5) (byteAt p 7)⟩,
   ⟨0x35, "TRIANGLE", .pppb, fun p =>
     .triangle (halfAt p 1) (halfAt p 3) (halfAt p 5) (halfAt p 7) (halfAt p 9) (halfAt p 11) (byteAt p 13)⟩,
   ⟨0x36, "FILL_TRIANGLE", .pppb, fun p =>
     .fillTriangle (halfAt p 1) (halfAt p 3) (halfAt p 5) (halfAt p 7) (halfAt p 9) (halfAt p 11) (byteAt p 13)⟩]

/-- R105, the text operations. -/
def opRowsText : List OpRow :=
  [⟨0x40, "DRAW_CHAR", .pbb, fun p => .drawChar (halfAt p 1) (halfAt p 3) (byteAt p 5) (byteAt p 6)⟩,
   ⟨0x41, "DRAW_STRING", .pbs, fun p =>
     .drawString (halfAt p 1) (halfAt p 3) (byteAt p 5) (charsAt p 7 (byteAt p 6).toNat)⟩,
   ⟨0x42, "STRING_WIDTH", .s, fun p => .stringWidth (charsAt p 2 (byteAt p 1).toNat)⟩]

/-- The opcode map of R105: 25 rows, every other opcode value reserved (R108). -/
def opRows : List OpRow := opRowsPixel ++ opRowsProtocol ++ opRowsRaster ++ opRowsText

/-- The row of an opcode, `none` for a reserved one (R108). -/
def opRow (op : Byte) : Option OpRow := opRows.find? fun r => r.opcode == op

/-! ### Decoding (R106) -/

/-- `Decode(p, PLEN, POVF)` of R106, steps 1 to 4 of R305: `p` is the packet, `povf` the overflow mark it was taken with. -/
def decode (v : Variant) (p : List Byte) (povf : Bool) : Except ErrCode Instr :=
  match p with
  | [] => .error .badLength
  | op :: _ =>
    match opRow op with
    | none => .error .badOpcode
    | some row =>
      if op = 0x12 ∧ v = .mono1 then .error .unsupported
      else if povf then .error .badLength
      else match row.format.length p with
        | none => .error .badLength
        | some len => if p.length = len then .ok (row.make p) else .error .badLength

/-! ### Encoding (R96, R105) -/

/-- The packet of an operation: the opcode of R105 and the operands in the places of R96. -/
def encode : Instr → List Byte
  | .nop => [0x00]
  | .clearErr => [0x01]
  | .plotRaw x y cb => 0x10 :: (halfBytes x ++ halfBytes y ++ [cb])
  | .drawPixel x y cb => 0x11 :: (halfBytes x ++ halfBytes y ++ [cb])
  | .drawPixelGray x y g => 0x12 :: (halfBytes x ++ halfBytes y ++ [g])
  | .readPixel x y => 0x13 :: (halfBytes x ++ halfBytes y)
  | .fill a => [0x14, a]
  | .setRot a => [0x15, a]
  | .init => [0x20]
  | .display => [0x21]
  | .hpm => [0x22]
  | .lpm => [0x23]
  | .sleep eb => [0x24, eb]
  | .invert eb => [0x25, eb]
  | .dispon eb => [0x26, eb]
  | .line x0 y0 x1 y1 cb => 0x30 :: (halfBytes x0 ++ halfBytes y0 ++ halfBytes x1 ++ halfBytes y1 ++ [cb])
  | .rect x0 y0 x1 y1 cb => 0x31 :: (halfBytes x0 ++ halfBytes y0 ++ halfBytes x1 ++ halfBytes y1 ++ [cb])
  | .fillRect x0 y0 x1 y1 cb => 0x32 :: (halfBytes x0 ++ halfBytes y0 ++ halfBytes x1 ++ halfBytes y1 ++ [cb])
  | .circle cx cy r cb => 0x33 :: (halfBytes cx ++ halfBytes cy ++ halfBytes r ++ [cb])
  | .fillCircle cx cy r cb => 0x34 :: (halfBytes cx ++ halfBytes cy ++ halfBytes r ++ [cb])
  | .triangle x0 y0 x1 y1 x2 y2 cb =>
    0x35 :: (halfBytes x0 ++ halfBytes y0 ++ halfBytes x1 ++ halfBytes y1 ++ halfBytes x2 ++ halfBytes y2 ++ [cb])
  | .fillTriangle x0 y0 x1 y1 x2 y2 cb =>
    0x36 :: (halfBytes x0 ++ halfBytes y0 ++ halfBytes x1 ++ halfBytes y1 ++ halfBytes x2 ++ halfBytes y2 ++ [cb])
  | .drawChar x y ch cb => 0x40 :: (halfBytes x ++ halfBytes y ++ [ch, cb])
  | .drawString x y cb chars =>
    0x41 :: (halfBytes x ++ halfBytes y ++ [cb, BitVec.ofNat 8 chars.length] ++ chars)
  | .stringWidth chars => 0x42 :: BitVec.ofNat 8 chars.length :: chars

/-! ### Pseudo-instructions (R112) -/

/-- The pseudo-instructions of R112: other names of operations, with no packets of their own. -/
inductive Pseudo where
  | clear | setAll | sleepIn | wake | invOn | invOff | dOn | dOff
  deriving DecidableEq, Repr

/-- The operation a pseudo-instruction stands for (R112). -/
def expandPseudo : Pseudo → Instr
  | .clear => .fill 0x00
  | .setAll => .fill 0xFF
  | .sleepIn => .sleep 1
  | .wake => .sleep 0
  | .invOn => .invert 1
  | .invOff => .invert 0
  | .dOn => .dispon 1
  | .dOff => .dispon 0

/-! ### Words numbered as spec/opcode_table.json numbers them -/

/-- The `n` bytes of `w`, least significant byte first: the table's first byte is bits 7..0. -/
def wordBytes : Nat → Nat → List Byte
  | 0, _ => []
  | n + 1, w => BitVec.ofNat 8 w :: wordBytes n (w / 256)

/-- The packet whose first `nbits` bits are `w` and whose later bytes are 0, as long as its opcode (and its length byte) says
(R107). A reserved opcode's packet has only the bytes given. -/
def tablePacket (nbits w : Nat) : List Byte :=
  let given := wordBytes (nbits / 8) w
  let padded := given ++ List.replicate Config.pktMax 0
  match opRow (byteAt given 0) with
  | none => given
  | some row =>
    match row.format.length padded with
    | none => given
    | some len => padded.take (max len given.length)

/-- What the decoder reads from the table's word (log 23: in a GRAY2 build, where every row exists). -/
def decodeTableWord (nbits w : Nat) : Option Instr := (decode .gray2 (tablePacket nbits w) false).toOption

end Sys2Proof
end

