-- ==== Sys2Proof/Machine/Ops.lean ====
section
/-!
DEFINITION. Machine/Ops.lean: the named operations over memory and registers that the meanings share: the byte accesses of
20_memory.md rule R62, the commit and the abort of rule R75, the recording of an error (60_exceptions.md rules R302, R303;
the block's whole "exception entry", R300), and the emission of transport events (41_protocol.md rules R170, R171, R174).
-/

namespace Sys2Proof.Machine

/-! ### Framebuffer memory -/

/-- The byte at index `i`; an index not listed reads 0x00, FB's reset value (R35). -/
def Memory.read : Memory → Nat → Byte
  | [], _ => 0
  | (a, b) :: m, i => if a = i then b else Memory.read m i

/-- Sets the byte at index `i`, keeping the list rising and free of 0x00 entries. -/
def Memory.write : Memory → Nat → Byte → Memory
  | [], i, v => if v = 0 then [] else [(i, v)]
  | (a, b) :: m, i, v =>
    if i < a then (if v = 0 then (a, b) :: m else (i, v) :: (a, b) :: m)
    else if i = a then (if v = 0 then m else (i, v) :: m)
    else (a, b) :: Memory.write m i v

/-- Every byte of indices 0..n-1 set to `v` (R69). -/
def Memory.filled (n : Nat) (v : Byte) : Memory :=
  if v = 0 then [] else (List.range n).map fun i => (i, v)

/-- The bytes of indices 0..n-1 in ascending order (R66 (b)). -/
def Memory.bytes (m : Memory) (n : Nat) : List Byte := (List.range n).map (Memory.read m)

/-- The entries rise from `lo` and none is 0x00. -/
def Memory.risesFrom : Nat → Memory → Bool
  | _, [] => true
  | lo, (a, b) :: m => decide (lo ≤ a) && decide (b ≠ 0) && Memory.risesFrom (a + 1) m

/-- The canonical form: indices strictly rising, no entry equal to what an unlisted index reads as. -/
def Memory.wf (m : Memory) : Bool := Memory.risesFrom 0 m

/-- Every listed index is below `n`. -/
def Memory.below (n : Nat) (m : Memory) : Bool := m.all fun c => decide (c.1 < n)

/-- `MemRead(FBS, i, 1)` (R62); an index outside the space faults (93 V9). -/
def fbRead (b : Build) (m : Memory) (i : Nat) : Except Fault Byte :=
  if i < b.fbLen then .ok (m.read i) else .error .fbIndex

/-- `MemWrite(FBS, i, 1, v)` (R62); an index outside the space faults (93 V9). -/
def fbWrite (b : Build) (m : Memory) (i : Nat) (v : Byte) : Except Fault Memory :=
  if i < b.fbLen then .ok (m.write i v) else .error .fbIndex

/-- Read, modify and write one byte (R68). -/
def fbUpdate (b : Build) (m : Memory) (i : Nat) (f : Byte → Byte) : Except Fault Memory :=
  match fbRead b m i with
  | .ok v => fbWrite b m i (f v)
  | .error e => .error e

/-- `MemRead(ROMS, i, 1)` (R62, R63); an index outside the ROM faults (93 V9). -/
def romRead (f : Font) (i : Nat) : Except Fault Byte :=
  match f.rom[i]? with
  | some v => .ok v
  | none => .error .romIndex

/-- `v` with bit `k` set to `c`; bit 0 is the least significant (R16, R137). -/
def setBit (v : Byte) (k : Nat) (c : Bool) : Byte :=
  if c then v ||| (1#8 <<< k) else v &&& ~~~(1#8 <<< k)

/-! ### Registers -/

/-- The framebuffer replaced. -/
def State.setFb (s : State) (m : Memory) : State := { s with fb := m }

/-- `ROT <- r`. -/
def State.setRot (s : State) (r : BitVec 2) : State := { s with rot := r }

/-- `PWR <- p`. -/
def State.setPwr (s : State) (p : Power) : State := { s with pwr := p }

/-- `result <- v`. -/
def State.setResult (s : State) (v : Word) : State := { s with result := v }

/-- `SEQ <- q`. -/
def State.setSeq (s : State) (q : Seq) : State := { s with seq := q }

/-- STATUS.BUSY (R37, R44). -/
def State.busy (s : State) : Bool := decide (s.seq ≠ .idle)

/-- `PLEN` (R43). -/
def State.plen (s : State) : Nat := s.pbuf.length

/-! ### Ending an operation -/

/-- The commit's last part: SEQ <- IDLE, so BUSY <- 0 (R75). -/
def State.commit (s : State) : State := s.setSeq .idle

/-- `RecordErr(code)`: the first error since the last clear is kept (R39, R302). -/
def State.recordErr (s : State) (c : ErrCode) : State :=
  if s.err then s else { s with err := true, errCode := c }

/-- `raise Err(code)` for an error detected before execution: record it and abort, with no other effect (R303). This is the
block's one exception entry: it saves nothing and goes to no handler (R300). -/
def State.raise (s : State) (c : ErrCode) : State := (s.recordErr c).setSeq .idle

/-- The recorded error cleared, the block's "trap return" (R190, R300, R309). -/
def State.clearRecord (s : State) : State := { s with err := false, errCode := .noError }

/-- The end of an operation that changes the framebuffer to what `r` gives. -/
def State.finishFb (s : State) (r : Except Fault Memory) : Host.Outcome State Fault Refusal :=
  match r with
  | .ok m => .next (s.setFb m).commit
  | .error f => .fault f

/-! ### Starting an operation -/

/-- The power state that STATUS.PWR shows once the packet is accepted: INITIALIZING from the start of an INIT, else unchanged
(R25, R37, R38; DEDUCED, log 15). -/
def startPower (v : Variant) (p : Packet) (pwr : Power) : Power :=
  match decode v p.bytes p.povf with
  | .ok .init => .initializing
  | _ => pwr

/-- The packet is accepted: SEQ <- EXEC(p, 0), so BUSY <- 1 (R91). -/
def State.accept (s : State) (p : Packet) : State :=
  { s with seq := .exec p 0 none, pwr := startPower s.build.variant p s.pwr }

/-! ### Transport events -/

/-- The event is a frame: it holds CS_N low (R171). -/
def TxEvent.isFrame : TxEvent → Bool
  | .cmd _ => true
  | .data _ => true
  | .burst _ => true
  | .txSetup => false
  | .rst _ => false
  | .delay _ => false

/-- The event can complete with fail (R170, R174). -/
def TxEvent.canFail : TxEvent → Bool
  | .txSetup => true
  | .cmd _ => true
  | .data _ => true
  | .burst _ => true
  | .rst _ => false
  | .delay _ => false

/-- The pins as the event's start drives them (R170, R171; log 28): a frame drives CS_N low and DC low for a command, high for
data. -/
def State.drivePins (s : State) (e : TxEvent) : State :=
  match e with
  | .rst v => { s with rstN := v }
  | .cmd _ => { s with csN := false, dc := false }
  | .data _ => { s with csN := false, dc := true }
  | .burst _ => { s with csN := false, dc := true }
  | .txSetup => s
  | .delay _ => s

/-- The event is issued and its completion awaited (R170). -/
def State.issue (s : State) (p : Packet) (done : Nat) (e : TxEvent) : State :=
  (s.drivePins e).setSeq (.exec p done (some e))

/-- The transport's next completion: the scheduled one, else the free value (R174, U5; log 5). -/
def State.nextAnswer (s : State) : Bool :=
  match s.answers with
  | a :: _ => a
  | [] => Config.freeAnswer s.freeCount

/-- A completion was taken from the schedule, or a free one. -/
def State.takeAnswer (s : State) : State :=
  match s.answers with
  | _ :: rest => { s with answers := rest }
  | [] => { s with freeCount := s.freeCount + 1 }

/-- The event in flight ends: a frame releases CS_N, and the trace records the ending (R9, R171). -/
def State.endEvent (s : State) (e : TxEvent) (how : Ending) : State :=
  { s with csN := s.csN || e.isFrame, trace := s.trace ++ [(e, how)] }

/-- The event completed with ok: one more of the operation's events is done (R44). -/
def State.eventOk (s : State) (p : Packet) (done : Nat) (e : TxEvent) : State :=
  (s.endEvent e .ok).setSeq (.exec p (done + 1) none)

/-- The event completed with fail: TRANSPORT_FAIL is recorded, PWR <- UNINITIALIZED, and the operation aborts (R308). -/
def State.eventFail (s : State) (e : TxEvent) : State :=
  ((s.endEvent e .fail).setPwr .uninitialized).raise .transportFail

/-- The completion of the event in flight (R170, R174). -/
def State.complete (s : State) (p : Packet) (done : Nat) (e : TxEvent) : State :=
  if e.canFail then
    if s.nextAnswer then s.takeAnswer.eventOk p done e else s.takeAnswer.eventFail e
  else s.eventOk p done e

/-- The sequencer's next step in an operation whose event list is `evs` and whose commit does `atCommit` (R44, R75, R77): the
event in flight completes; else the next event is issued; else the operation commits. An idle sequencer executes nothing
(log 21). -/
def State.sequence (s : State) (evs : List TxEvent) (atCommit : State → State) : State :=
  match s.seq with
  | .idle => s
  | .exec p done (some e) => s.complete p done e
  | .exec p done none =>
    match evs[done]? with
    | some e => s.issue p done e
    | none => (atCommit s).commit

/-- `SendEntry(cmd, payload, d)` (R179): the events of one table entry. -/
def sendEntry (cmd : Byte) (payload : List Byte) (d : Nat) : List TxEvent :=
  .cmd cmd :: (payload.map .data ++ if 0 < d then [.delay d] else [])

/-! ### Block reset -/

/-- The trace when a block reset comes: an event in flight is cut off (R340). -/
def State.cutTrace (s : State) : List (TxEvent × Ending) :=
  match s.seq with
  | .exec _ _ (some e) => s.trace ++ [(e, .cut)]
  | .exec _ _ none => s.trace
  | .idle => s.trace

/-- Block reset: every piece of the block's state takes its reset value at once and no event is emitted (R340, R49). What is not the
block's stays: the build, the inputs and answers still to come, and what was observed (log 26). -/
def State.blockReset (s : State) : State :=
  { State.resetOf s.build with
    inputs := s.inputs, answers := s.answers, freeCount := s.freeCount, trace := s.cutTrace, reads := s.reads }

end Sys2Proof.Machine
end

