-- ==== Sys2Proof/Machine/Pixel.lean ====
section
/-!
DEFINITION. Machine/Pixel.lean: the packed-pixel address decoder, the physical pixel write and read, the rotation and the
PixelSink (40_framebuffer.md rules R130 to R142).
-/

namespace Sys2Proof.Machine

/-! ### The address decoder -/

/-- `MonoIndex(px, py)` (R131). -/
def monoIndex (b : Build) (px py : Nat) : Nat := (py / 2) * b.dataW + px / 4

/-- `MonoBit(px, py)` (R132). -/
def monoBit (px py : Nat) : Nat := 7 - (2 * (px % 4) + py % 2)

/-- `GrayIndex(px, py)` (R133). -/
def grayIndex (b : Build) (px py : Nat) : Nat := (py / 2) * b.dataW + px / 2

/-- `BitA(px, py)`, which holds bit 1 of the level (R133, R134). -/
def bitA (px py : Nat) : Nat := 7 - (4 * (px % 2) + py % 2)

/-- `BitB(px, py)`, which holds bit 0 of the level (R133, R134). -/
def bitB (px py : Nat) : Nat := 7 - (4 * (px % 2) + 2 + py % 2)

/-- The byte that holds physical pixel (px, py) in the build's variant (R130). -/
def pixelIndex (b : Build) (px py : Nat) : Nat :=
  match b.variant with
  | .mono1 => monoIndex b px py
  | .gray2 => grayIndex b px py

/-- `InBounds(px, py)`, over the integers (R135). -/
def inBounds (b : Build) (q : Point) : Bool :=
  decide (0 ≤ q.1 ∧ q.1 < b.panelW ∧ 0 ≤ q.2 ∧ q.2 < b.panelH)

/-! ### Physical pixels -/

/-- The byte `v` with pixel (px, py) set to the colour `c`: one bit in MONO1, both bits in GRAY2 (R137). -/
def putColour (vt : Variant) (px py : Nat) (c : Bool) (v : Byte) : Byte :=
  match vt with
  | .mono1 => setBit v (monoBit px py) c
  | .gray2 => setBit (setBit v (bitA px py) c) (bitB px py) c

/-- The byte `v` with GRAY2 pixel (px, py) set to the level `g`: bit 1 of `g` in BitA, bit 0 in BitB (R134, R137). -/
def putLevel (px py : Nat) (g : Byte) (v : Byte) : Byte :=
  setBit (setBit v (bitA px py) (g.getLsbD 1)) (bitB px py) (g.getLsbD 0)

/-- The value of pixel (px, py) in the byte `v` that holds it: 0 or 1 in MONO1, 0..3 in GRAY2 (R142). -/
def pixelValue (vt : Variant) (px py : Nat) (v : Byte) : Nat :=
  match vt with
  | .mono1 => (v.getLsbD (monoBit px py)).toNat
  | .gray2 => 2 * (v.getLsbD (bitA px py)).toNat + (v.getLsbD (bitB px py)).toNat

/-- The byte holding physical point `q` updated by `f` of its coordinates, where `q` is in bounds; no byte touched elsewhere
(R135, R137). -/
def writePhysWith (b : Build) (m : Memory) (q : Point) (f : Nat → Nat → Byte → Byte) : Except Fault Memory :=
  if inBounds b q then fbUpdate b m (pixelIndex b q.1.toNat q.2.toNat) (f q.1.toNat q.2.toNat) else .ok m

/-- `WritePhys(px, py, c)` (R137). -/
def writePhys (b : Build) (m : Memory) (q : Point) (c : Bool) : Except Fault Memory :=
  writePhysWith b m q fun px py => putColour b.variant px py c

/-- `WritePhysGray(px, py, g)` (R137), GRAY2 only. -/
def writePhysGray (b : Build) (m : Memory) (q : Point) (g : Byte) : Except Fault Memory :=
  writePhysWith b m q fun px py => putLevel px py g

/-- `ReadPhys(px, py)` for an in-bounds point (R142). -/
def readPhys (b : Build) (m : Memory) (q : Point) : Except Fault Nat :=
  match fbRead b m (pixelIndex b q.1.toNat q.2.toNat) with
  | .ok v => .ok (pixelValue b.variant q.1.toNat q.2.toNat v)
  | .error e => .error e

/-! ### Rotation and the PixelSink -/

/-- `T_r(x, y)` with the fixed panel dimensions, over the integers (R138). -/
def rotate (b : Build) (r : BitVec 2) (p : Point) : Point :=
  if r = 0 then p
  else if r = 1 then ((b.panelW : Int) - 1 - p.2, p.1)
  else if r = 2 then ((b.panelW : Int) - 1 - p.1, (b.panelH : Int) - 1 - p.2)
  else (p.2, (b.panelH : Int) - 1 - p.1)

/-- `Plot(x, y, c)` (R141): rotate, then write; the bounds check comes after the rotation (R140). -/
def plot (b : Build) (r : BitVec 2) (m : Memory) (p : Point) (c : Bool) : Except Fault Memory :=
  writePhys b m (rotate b r p) c

/-- `PlotGray(x, y, g)` (R141). -/
def plotGray (b : Build) (r : BitVec 2) (m : Memory) (p : Point) (g : Byte) : Except Fault Memory :=
  writePhysGray b m (rotate b r p) g

/-- Plots of coloured points in order (R220, R265). -/
def plotAll (b : Build) (r : BitVec 2) : Memory → List (Point × Bool) → Except Fault Memory
  | m, [] => .ok m
  | m, (p, c) :: rest =>
    match plot b r m p c with
    | .ok m' => plotAll b r m' rest
    | .error e => .error e

/-- `for p in P: Plot(p, c)` (R220). -/
def plotPoints (b : Build) (r : BitVec 2) (m : Memory) (ps : List Point) (c : Bool) : Except Fault Memory :=
  plotAll b r m (ps.map fun p => (p, c))

end Sys2Proof.Machine
end

