-- ==== Sys2Proof/Machine/Framebuffer.lean ====
section
/-!
DEFINITION. Machine/Framebuffer.lean: the meanings of PLOT_RAW, DRAW_PIXEL, DRAW_PIXEL_GRAY, READ_PIXEL, FILL and SET_ROT
(40_framebuffer.md rules R143 to R148). Each is the operation's one sequencer step, its commit.
-/

namespace Sys2Proof.Machine

/-- `PLOT_RAW x, y, cb`: a physical pixel write, no rotation (R143). -/
def execPlotRaw (x y : Half) (cb : Byte) (s : State) : Host.Outcome State Fault Refusal :=
  s.finishFb (writePhys s.build s.fb (point x y) (colour cb))

/-- `DRAW_PIXEL x, y, cb`: a logical pixel write (R144). -/
def execDrawPixel (x y : Half) (cb : Byte) (s : State) : Host.Outcome State Fault Refusal :=
  s.finishFb (plot s.build s.rot s.fb (point x y) (colour cb))

/-- `DRAW_PIXEL_GRAY x, y, g`: a logical gray-level write; UNSUPPORTED in MONO1, BAD_OPERAND for a level above 3 (R145).
A packet never reaches this meaning in MONO1, where the decode refuses it first (R106; log 27). -/
def execDrawPixelGray (x y : Half) (g : Byte) (s : State) : Host.Outcome State Fault Refusal :=
  match s.build.variant with
  | .mono1 => .next (s.raise .unsupported)
  | .gray2 =>
    if 3 < g.toNat then .next (s.raise .badOperand)
    else s.finishFb (plotGray s.build s.rot s.fb (point x y) g)

/-- What READ_PIXEL puts in RESULT for a point out of bounds (R146). -/
def outOfBoundsResult : Word := 0xFFFFFFFF

/-- The value READ_PIXEL reads at a logical point (R146). -/
def readLogical (b : Build) (r : BitVec 2) (m : Memory) (p : Point) : Except Fault Word :=
  if inBounds b (rotate b r p) then
    match readPhys b m (rotate b r p) with
    | .ok v => .ok (BitVec.ofNat 32 v)
    | .error e => .error e
  else .ok outOfBoundsResult

/-- `READ_PIXEL x, y`: RESULT at the commit (R146). -/
def execReadPixel (x y : Half) (s : State) : Host.Outcome State Fault Refusal :=
  match readLogical s.build s.rot s.fb (point x y) with
  | .ok v => .next (s.setResult v).commit
  | .error e => .fault e

/-- `FILL a`: every framebuffer byte becomes `a` (R147). -/
def execFill (a : Byte) (s : State) : Host.Outcome State Fault Refusal :=
  .next (s.setFb (Memory.filled s.build.fbLen a)).commit

/-- `SET_ROT a`: ROT becomes `a & 3` (R148). -/
def execSetRot (a : Byte) (s : State) : Host.Outcome State Fault Refusal :=
  .next (s.setRot (a.setWidth 2)).commit

end Sys2Proof.Machine
end

