-- ==== Sys2Proof/Machine/Protocol.lean ====
section
/-!
DEFINITION. Machine/Protocol.lean: the meanings of NOP, CLEAR_ERR, INIT, DISPLAY, HPM, LPM, SLEEP, INVERT and DISPON
(41_protocol.md rules R175 to R190). The meaning of an operation that emits events is its NEXT sequencer step: SEQ says how
far the operation has come (10_state.md rule R44), and `State.sequence` takes the step.
-/

namespace Sys2Proof.Machine

/-! ### Housekeeping -/

/-- `NOP`: commit with no effect (R189). -/
def execNop (s : State) : Host.Outcome State Fault Refusal := .next s.commit

/-- `CLEAR_ERR`: ERR and ERR_CODE cleared at the commit (R190). -/
def execClearErr (s : State) : Host.Outcome State Fault Refusal := .next s.clearRecord.commit

/-! ### The event lists -/

/-- INIT's events (R177): bus set-up, the panel's reset pulse, then the table. -/
def initEvents (b : Build) : List TxEvent :=
  [.txSetup, .rst false, .delay Config.tRstLow, .rst true, .delay Config.tRstSettle] ++
  b.initTable.flatMap fun e => sendEntry e.cmd e.payload e.delay

/-- DISPLAY's events (R182): the column window, the row window, the memory write, then the whole framebuffer in one frame. -/
def displayEvents (b : Build) (m : Memory) : List TxEvent :=
  sendEntry b.cmds.caset b.colWindow 0 ++ sendEntry b.cmds.raset b.rowWindow 0 ++
  [.cmd b.cmds.ramwr, .burst (m.bytes b.fbLen)]

/-- SLEEP 1's events from HIGH_POWER (R185). -/
def sleepInEvents (b : Build) : List TxEvent := [.cmd b.cmds.slpin, .delay b.tSlpin]

/-- SLEEP 1's events from LOW_POWER: High Power Mode is forced first (R185). -/
def sleepInFromLowEvents (b : Build) : List TxEvent :=
  [.cmd b.cmds.hpm, .delay b.tLpmExit] ++ sleepInEvents b

/-- SLEEP 0's events from SLEEPING (R186). -/
def wakeEvents (b : Build) : List TxEvent := [.cmd b.cmds.slpout, .delay b.tWake]

/-! ### Bring-up and flush -/

/-- `INIT` (R177): PWR is INITIALIZING until the commit makes it HIGH_POWER; legal in every power state. -/
def execInit (s : State) : Host.Outcome State Fault Refusal :=
  .next ((s.setPwr .initializing).sequence (initEvents s.build) fun t => t.setPwr .highPower)

/-- `DISPLAY` (R180, R182): only in HIGH_POWER and LOW_POWER; no register changes at the commit. -/
def execDisplay (s : State) : Host.Outcome State Fault Refusal :=
  match s.pwr with
  | .highPower => .next (s.sequence (displayEvents s.build s.fb) id)
  | .lowPower => .next (s.sequence (displayEvents s.build s.fb) id)
  | .uninitialized => .next (s.raise .badState)
  | .initializing => .next (s.raise .badState)
  | .sleeping => .next (s.raise .badState)

/-! ### Power modes -/

/-- `HPM` (R183). -/
def execHpm (s : State) : Host.Outcome State Fault Refusal :=
  match s.pwr with
  | .highPower => .next s.commit
  | .lowPower => .next (s.sequence [.cmd s.build.cmds.hpm] fun t => t.setPwr .highPower)
  | .uninitialized => .next (s.raise .badState)
  | .initializing => .next (s.raise .badState)
  | .sleeping => .next (s.raise .badState)

/-- `LPM` (R184). -/
def execLpm (s : State) : Host.Outcome State Fault Refusal :=
  match s.pwr with
  | .lowPower => .next s.commit
  | .highPower => .next (s.sequence [.cmd s.build.cmds.lpm] fun t => t.setPwr .lowPower)
  | .uninitialized => .next (s.raise .badState)
  | .initializing => .next (s.raise .badState)
  | .sleeping => .next (s.raise .badState)

/-- `SLEEP eb` with the operand enabled: enter sleep (R185). -/
def sleepIn (s : State) : State :=
  match s.pwr with
  | .sleeping => s.commit
  | .lowPower => s.sequence (sleepInFromLowEvents s.build) fun t => t.setPwr .sleeping
  | .highPower => s.sequence (sleepInEvents s.build) fun t => t.setPwr .sleeping
  | .uninitialized => s.raise .badState
  | .initializing => s.raise .badState

/-- `SLEEP eb` with the operand 0: wake (R186). -/
def wake (s : State) : State :=
  match s.pwr with
  | .sleeping => s.sequence (wakeEvents s.build) fun t => t.setPwr .highPower
  | .highPower => s.commit
  | .lowPower => s.commit
  | .uninitialized => s.raise .badState
  | .initializing => s.raise .badState

/-- `SLEEP eb` (R185, R186). -/
def execSleep (eb : Byte) (s : State) : Host.Outcome State Fault Refusal :=
  .next (if enabled eb then sleepIn s else wake s)

/-- `INVERT eb`: one command in every power state, no register (R187, R48). -/
def execInvert (eb : Byte) (s : State) : Host.Outcome State Fault Refusal :=
  .next (s.sequence [.cmd (if enabled eb then s.build.cmds.invon else s.build.cmds.invoff)] id)

/-- `DISPON eb`: one command in every power state, no register (R188, R48). -/
def execDispon (eb : Byte) (s : State) : Host.Outcome State Fault Refusal :=
  .next (s.sequence [.cmd (if enabled eb then s.build.cmds.dispon else s.build.cmds.dispoff)] id)

end Sys2Proof.Machine
end

