-- ==== Sys2Proof/Machine/Geometry.lean ====
section
/-!
DEFINITION. Machine/Geometry.lean: the point generators of the rasterizer (42_rasterizer.md rules R221 to R237). Every loop is
a structural recursion on the number of its rounds, over the integers (00_scope.md rule R18).
-/

namespace Sys2Proof.Machine

/-- The integers a, a+1, ..., b; empty when a > b (R20). -/
def intRange (a b : Int) : List Int := (List.range (b - a + 1).toNat).map fun k => a + (k : Int)

/-- `HSpan(xa, xb, y)`: both ends included, in either order (R221). -/
def hSpan (xa xb y : Int) : List Point := (intRange (min xa xb) (max xa xb)).map fun x => (x, y)

/-! ### Lines (R222) -/

/-- `n` rounds of R222's loop from column `x`, row `y` and error `err`. -/
def lineWalk (steep : Bool) (dx dy ystep : Int) : Nat → Int → Int → Int → List Point
  | 0, _, _, _ => []
  | n + 1, x, y, err =>
    (if steep then (y, x) else (x, y)) ::
      (if err - dy < 0 then lineWalk steep dx dy ystep n (x + 1) (y + ystep) (err - dy + dx)
       else lineWalk steep dx dy ystep n (x + 1) y (err - dy))

/-- R222's loop for a line that runs left to right, `x0 ≤ x1`. -/
def lineRight (steep : Bool) (x0 y0 x1 y1 : Int) : List Point :=
  lineWalk steep (x1 - x0) |y1 - y0| (if y0 < y1 then 1 else -1) (x1 - x0 + 1).toNat x0 y0 ((x1 - x0) / 2)

/-- The endpoint swap of R222. -/
def lineOrdered (steep : Bool) (x0 y0 x1 y1 : Int) : List Point :=
  if x1 < x0 then lineRight steep x1 y1 x0 y0 else lineRight steep x0 y0 x1 y1

/-- `LinePoints(x0, y0, x1, y1)`: the steep swap, the endpoint swap, the loop (R222). -/
def linePoints (p q : Point) : List Point :=
  if |q.1 - p.1| < |q.2 - p.2| then lineOrdered true p.2 p.1 q.2 q.1 else lineOrdered false p.1 p.2 q.1 q.2

/-! ### Rectangles (R225, R226) -/

/-- The four edges of RECT, in its order (R225). -/
def rectPoints (p q : Point) : List Point :=
  linePoints (p.1, p.2) (q.1, p.2) ++ linePoints (q.1, p.2) (q.1, q.2) ++
  linePoints (q.1, q.2) (p.1, q.2) ++ linePoints (p.1, q.2) (p.1, p.2)

/-- The rows of FILL_RECT (R226). -/
def fillRectPoints (p q : Point) : List Point :=
  (intRange (min p.2 q.2) (max p.2 q.2)).flatMap fun y => hSpan p.1 q.1 y

/-! ### Circles (R227 to R229) -/

/-- At most `n` rounds of R227's loop; it ends when `x > y`. -/
def circleWalk : Nat → Int → Int → Int → List Point
  | 0, _, _, _ => []
  | n + 1, x, y, d =>
    if x ≤ y then
      (x, y) ::
        (if d < 0 then circleWalk n (x + 1) y (d + 2 * x + 3)
         else circleWalk n (x + 1) (y - 1) (d + 2 * (x - y) + 5))
    else []

/-- `CircleSteps(r)` (R227): x rises by 1 in each round and y never rises, so r + 1 rounds are enough. -/
def circleSteps (r : Nat) : List Point := circleWalk (r + 1) 0 r (1 - (r : Int))

/-- The eight symmetric points of one step (R228). -/
def octants (c : Point) (p : Point) : List Point :=
  [(c.1 + p.1, c.2 + p.2), (c.1 - p.1, c.2 + p.2), (c.1 + p.1, c.2 - p.2), (c.1 - p.1, c.2 - p.2),
   (c.1 + p.2, c.2 + p.1), (c.1 - p.2, c.2 + p.1), (c.1 + p.2, c.2 - p.1), (c.1 - p.2, c.2 - p.1)]

/-- The points of CIRCLE (R228). -/
def circlePoints (c : Point) (r : Nat) : List Point := (circleSteps r).flatMap (octants c)

/-- The four spans of one step (R229). -/
def circleSpans (c : Point) (p : Point) : List Point :=
  hSpan (c.1 - p.1) (c.1 + p.1) (c.2 + p.2) ++ hSpan (c.1 - p.1) (c.1 + p.1) (c.2 - p.2) ++
  hSpan (c.1 - p.2) (c.1 + p.2) (c.2 + p.1) ++ hSpan (c.1 - p.2) (c.1 + p.2) (c.2 - p.1)

/-- The points of FILL_CIRCLE (R229). -/
def fillCirclePoints (c : Point) (r : Nat) : List Point := (circleSteps r).flatMap (circleSpans c)

/-! ### Triangles and the scanline fill (R231 to R237) -/

/-- The three edges of TRIANGLE (R231). -/
def trianglePoints (a b c : Point) : List Point := linePoints a b ++ linePoints b c ++ linePoints c a

/-- `Crosses(e, y)` for the edge between `p` and `q`: half-open in y (R234). -/
def crosses (p q : Point) (y : Int) : Bool := decide (min p.2 q.2 ≤ y ∧ y < max p.2 q.2)

/-- `XAt(e, y)` for an edge whose lower endpoint is `lo` (R236). -/
def xAtFrom (lo hi : Point) (y : Int) : Int :=
  lo.1 + ((y - lo.2) * (hi.1 - lo.1)).tdiv (hi.2 - lo.2)

/-- `XAt(e, y)`: the edge is oriented by y (R234, R236). -/
def xAt (p q : Point) (y : Int) : Int := if q.2 < p.2 then xAtFrom q p y else xAtFrom p q y

/-- The edges of a closed polygon: each vertex with the next, the last with the first (R232). -/
def edges (vs : List Point) : List (Point × Point) := vs.zip (vs.drop 1 ++ vs.take 1)

/-- The x-intersections of row `y`, in the order of the edges (R232). -/
def crossings (vs : List Point) (y : Int) : List Int :=
  ((edges vs).filter fun e => crosses e.1 e.2 y).map fun e => xAt e.1 e.2 y

/-- `x` put into a sorted list. -/
def insertRising (x : Int) : List Int → List Int
  | [] => [x]
  | z :: zs => if x ≤ z then x :: z :: zs else z :: insertRising x zs

/-- The list sorted ascending (R235). -/
def sortRising (xs : List Int) : List Int := xs.foldr insertRising []

/-- The spans between alternate pairs of one row; a last element without a partner is ignored (R232, R235). -/
def pairSpans (y : Int) : List Int → List Point
  | xa :: xb :: rest => hSpan xa xb y ++ pairSpans y rest
  | [_] => []
  | [] => []

/-- The least of a non-empty list given as its head and tail. -/
def leastOf (y : Int) (ys : List Int) : Int := ys.foldl min y

/-- The greatest of a non-empty list given as its head and tail. -/
def greatestOf (y : Int) (ys : List Int) : Int := ys.foldl max y

/-- `ScanFill(V)` (R232, R233). -/
def scanFill (vs : List Point) : List Point :=
  match vs.map Prod.snd with
  | [] => []
  | y :: ys => (intRange (leastOf y ys) (greatestOf y ys)).flatMap fun row => pairSpans row (sortRising (crossings vs row))

/-- The points of FILL_TRIANGLE: the scan, then the outline (R237). -/
def fillTrianglePoints (a b c : Point) : List Point := scanFill [a, b, c] ++ trianglePoints a b c

end Sys2Proof.Machine
end

