-- ==== Sys2Proof/Machine/Rasterizer.lean ====
section
/-!
DEFINITION. Machine/Rasterizer.lean: the meanings of LINE, RECT, FILL_RECT, CIRCLE, FILL_CIRCLE, TRIANGLE and FILL_TRIANGLE
(42_rasterizer.md rules R220 to R237): generate the operation's points, plot each with its colour, commit. They run in every
power state and raise no error (R220).
-/

namespace Sys2Proof.Machine

/-- `for p in P: Plot(p, c)`, then the commit (R220). -/
def drawPoints (s : State) (ps : List Point) (cb : Byte) : Host.Outcome State Fault Refusal :=
  s.finishFb (plotPoints s.build s.rot s.fb ps (colour cb))

/-- `LINE x0, y0, x1, y1, cb` (R223). -/
def execLine (x0 y0 x1 y1 : Half) (cb : Byte) (s : State) : Host.Outcome State Fault Refusal :=
  drawPoints s (linePoints (point x0 y0) (point x1 y1)) cb

/-- `RECT x0, y0, x1, y1, cb` (R225). -/
def execRect (x0 y0 x1 y1 : Half) (cb : Byte) (s : State) : Host.Outcome State Fault Refusal :=
  drawPoints s (rectPoints (point x0 y0) (point x1 y1)) cb

/-- `FILL_RECT x0, y0, x1, y1, cb` (R226). -/
def execFillRect (x0 y0 x1 y1 : Half) (cb : Byte) (s : State) : Host.Outcome State Fault Refusal :=
  drawPoints s (fillRectPoints (point x0 y0) (point x1 y1)) cb

/-- `CIRCLE cx, cy, r, cb` (R228). -/
def execCircle (cx cy r : Half) (cb : Byte) (s : State) : Host.Outcome State Fault Refusal :=
  drawPoints s (circlePoints (point cx cy) (radius r)) cb

/-- `FILL_CIRCLE cx, cy, r, cb` (R229). -/
def execFillCircle (cx cy r : Half) (cb : Byte) (s : State) : Host.Outcome State Fault Refusal :=
  drawPoints s (fillCirclePoints (point cx cy) (radius r)) cb

/-- `TRIANGLE x0, y0, x1, y1, x2, y2, cb` (R231). -/
def execTriangle (x0 y0 x1 y1 x2 y2 : Half) (cb : Byte) (s : State) : Host.Outcome State Fault Refusal :=
  drawPoints s (trianglePoints (point x0 y0) (point x1 y1) (point x2 y2)) cb

/-- `FILL_TRIANGLE x0, y0, x1, y1, x2, y2, cb` (R237). -/
def execFillTriangle (x0 y0 x1 y1 x2 y2 : Half) (cb : Byte) (s : State) : Host.Outcome State Fault Refusal :=
  drawPoints s (fillTrianglePoints (point x0 y0) (point x1 y1) (point x2 y2)) cb

end Sys2Proof.Machine
end

