-- ==== Sys2Proof/Machine/Glyph.lean ====
section
/-!
DEFINITION. Machine/Glyph.lean: glyph lookup and bit fetch, and the plots of a glyph and of a string (43_font.md rules R260 to
R267).
-/

namespace Sys2Proof.Machine

/-- The code is in `[FONT_FIRST, FONT_LAST]` (R261, R268). -/
def inFont (f : Font) (ch : Byte) : Bool :=
  decide (f.first.toNat ≤ ch.toNat ∧ ch.toNat ≤ f.last.toNat)

/-- `GlyphSelect(ch)`: the record's ROM offset, or `none` for BLANK (R261). -/
def glyphSelect (f : Font) (ch : Byte) : Option Nat :=
  if inFont f ch then some ((ch.toNat - f.first.toNat) * f.bpc) else none

/-- The ROM index and the bit of glyph pixel (i, j), in the font's layout (R262, R263). -/
def glyphBitPlace (f : Font) (off i j : Nat) : Nat × Nat :=
  match f.layout with
  | .horizontal => (off + j * bytesFor f.width + i / 8, 7 - i % 8)
  | .vertical => (off + i * bytesFor f.height + j / 8, j % 8)

/-- `GlyphBit(g, i, j)`: 0 for BLANK, with no ROM byte read (R262 to R264). -/
def glyphBit (f : Font) (g : Option Nat) (i j : Nat) : Except Fault Bool :=
  match g with
  | none => .ok false
  | some off =>
    match romRead f (glyphBitPlace f off i j).1 with
    | .ok v => .ok (v.getLsbD (glyphBitPlace f off i j).2)
    | .error e => .error e

/-- What one glyph bit plots at a point: a 1 bit the colour, a 0 bit nothing or the opposite colour (R265, R266). -/
def bitPlots (bg : GlyphBg) (bit : Bool) (p : Point) (c : Bool) : List (Point × Bool) :=
  if bit then [(p, c)]
  else match bg with
    | .transparent => []
    | .solid => [(p, !c)]

/-- The plots of the listed glyph pixels, in order, for a glyph whose top-left pixel is at `o`. -/
def cellPlots (f : Font) (g : Option Nat) (o : Point) (c : Bool) : List (Nat × Nat) → Except Fault (List (Point × Bool))
  | [] => .ok []
  | (i, j) :: rest =>
    match glyphBit f g i j, cellPlots f g o c rest with
    | .ok bit, .ok ps => .ok (bitPlots f.bg bit (o.1 + (i : Int), o.2 + (j : Int)) c ++ ps)
    | .error e, _ => .error e
    | .ok _, .error e => .error e

/-- The pixels of a glyph cell, row by row, left to right (R260, R265). -/
def glyphCells (f : Font) : List (Nat × Nat) :=
  (List.range f.height).flatMap fun j => (List.range f.width).map fun i => (i, j)

/-- `BlitGlyph(x, y, ch, c)` as its list of plots (R265). -/
def glyphPlots (f : Font) (o : Point) (ch : Byte) (c : Bool) : Except Fault (List (Point × Bool)) :=
  cellPlots f (glyphSelect f ch) o c (glyphCells f)

/-- The plots of a string whose next character's cell is at `o`; the cursor advances by FONT_W + GLYPH_SPACING (R267). -/
def stringPlots (f : Font) (c : Bool) : Point → List Byte → Except Fault (List (Point × Bool))
  | _, [] => .ok []
  | o, ch :: rest =>
    match glyphPlots f o ch c, stringPlots f c (o.1 + ((f.width + f.spacing : Nat) : Int), o.2) rest with
    | .ok ps, .ok qs => .ok (ps ++ qs)
    | .error e, _ => .error e
    | .ok _, .error e => .error e

/-- The width STRING_WIDTH gives: FONT_W for each character in range, no spacing (R268). -/
def stringWidthOf (f : Font) : List Byte → Nat
  | [] => 0
  | ch :: rest => (if inFont f ch then f.width else 0) + stringWidthOf f rest

end Sys2Proof.Machine
end

