-- ==== Sys2Proof/Machine/Text.lean ====
section
/-!
DEFINITION. Machine/Text.lean: the meanings of DRAW_CHAR, DRAW_STRING and STRING_WIDTH (43_font.md rules R265 to R268).
-/

namespace Sys2Proof.Machine

/-- The plots of a glyph or a string made, then the commit; a ROM index outside the ROM faults (93 V9). -/
def drawPlots (s : State) (r : Except Fault (List (Point × Bool))) : Host.Outcome State Fault Refusal :=
  match r with
  | .ok ps => s.finishFb (plotAll s.build s.rot s.fb ps)
  | .error e => .fault e

/-- `DRAW_CHAR x, y, ch, cb` (R265). -/
def execDrawChar (x y : Half) (ch cb : Byte) (s : State) : Host.Outcome State Fault Refusal :=
  drawPlots s (glyphPlots s.build.font (point x y) ch (colour cb))

/-- `DRAW_STRING x, y, cb, "s"` (R267). -/
def execDrawString (x y : Half) (cb : Byte) (chars : List Byte) (s : State) : Host.Outcome State Fault Refusal :=
  drawPlots s (stringPlots s.build.font (colour cb) (point x y) chars)

/-- `STRING_WIDTH "s"`: RESULT at the commit (R268). -/
def execStringWidth (chars : List Byte) (s : State) : Host.Outcome State Fault Refusal :=
  .next (s.setResult (BitVec.ofNat 32 (stringWidthOf s.build.font chars))).commit

end Sys2Proof.Machine
end

