-- ==== Sys2Proof/Machine/Dispatch.lean ====
section
/-!
DEFINITION. Machine/Dispatch.lean: the meaning of each operation, one arm per constructor: the next sequencer step of the
executing operation (10_state.md rule R44, 30_encoding.md rule R105).
-/

namespace Sys2Proof.Machine

def exec (i : Instr) (s : State) : Host.Outcome State Fault Refusal :=
  match i with
  | .nop => Sys2Proof.Machine.execNop s
  | .clearErr => Sys2Proof.Machine.execClearErr s
  | .plotRaw x y cb => Sys2Proof.Machine.execPlotRaw x y cb s
  | .drawPixel x y cb => Sys2Proof.Machine.execDrawPixel x y cb s
  | .drawPixelGray x y g => Sys2Proof.Machine.execDrawPixelGray x y g s
  | .readPixel x y => Sys2Proof.Machine.execReadPixel x y s
  | .fill a => Sys2Proof.Machine.execFill a s
  | .setRot a => Sys2Proof.Machine.execSetRot a s
  | .init => Sys2Proof.Machine.execInit s
  | .display => Sys2Proof.Machine.execDisplay s
  | .hpm => Sys2Proof.Machine.execHpm s
  | .lpm => Sys2Proof.Machine.execLpm s
  | .sleep eb => Sys2Proof.Machine.execSleep eb s
  | .invert eb => Sys2Proof.Machine.execInvert eb s
  | .dispon eb => Sys2Proof.Machine.execDispon eb s
  | .line x0 y0 x1 y1 cb => Sys2Proof.Machine.execLine x0 y0 x1 y1 cb s
  | .rect x0 y0 x1 y1 cb => Sys2Proof.Machine.execRect x0 y0 x1 y1 cb s
  | .fillRect x0 y0 x1 y1 cb => Sys2Proof.Machine.execFillRect x0 y0 x1 y1 cb s
  | .circle cx cy r cb => Sys2Proof.Machine.execCircle cx cy r cb s
  | .fillCircle cx cy r cb => Sys2Proof.Machine.execFillCircle cx cy r cb s
  | .triangle x0 y0 x1 y1 x2 y2 cb => Sys2Proof.Machine.execTriangle x0 y0 x1 y1 x2 y2 cb s
  | .fillTriangle x0 y0 x1 y1 x2 y2 cb => Sys2Proof.Machine.execFillTriangle x0 y0 x1 y1 x2 y2 cb s
  | .drawChar x y ch cb => Sys2Proof.Machine.execDrawChar x y ch cb s
  | .drawString x y cb chars => Sys2Proof.Machine.execDrawString x y cb chars s
  | .stringWidth chars => Sys2Proof.Machine.execStringWidth chars s

end Sys2Proof.Machine
end

