-- ==== Sys2Proof/Machine/Flags.lean ====
section
/-!
DEFINITION. Machine/Flags.lean: the STATUS register (10_state.md rules R36 to R40). The block has no arithmetic flags (R47);
STATUS is a view of PWR, ROT, ERR, ERR_CODE, SEQ and the build's VARIANT.
-/

namespace Sys2Proof.Machine

/-- PWR's encoding (R33). -/
def Power.code : Power → Nat
  | .uninitialized => 0
  | .initializing => 1
  | .highPower => 2
  | .lowPower => 3
  | .sleeping => 4

/-- ERR_CODE's encoding (R301). -/
def errCodeValue : ErrCode → Nat
  | .noError => 0
  | .badOpcode => 1
  | .badLength => 2
  | .unsupported => 3
  | .badState => 4
  | .badOperand => 5
  | .transportFail => 6
  | .overrun => 7

/-- STATUS.VARIANT (R36). -/
def variantBit : Variant → Nat
  | .mono1 => 0
  | .gray2 => 1

/-- STATUS (R36): BUSY in bit 0, PWR in 3:1, ROT in 5:4, ERR in 6, ERR_CODE in 11:8, VARIANT in 12, every other bit 0 (R40). -/
def statusWord (s : State) : Word :=
  BitVec.ofNat 32 (s.busy.toNat + 2 * s.pwr.code + 16 * s.rot.toNat + 64 * s.err.toNat +
    256 * errCodeValue s.errCode + 4096 * variantBit s.build.variant)

end Sys2Proof.Machine
end

