-- ==== Sys2Proof/Machine/HostPort.lean ====
section
/-!
DEFINITION. Machine/HostPort.lean: the host register window (20_memory.md rules R64, R65; 30_encoding.md rules R90, R91;
60_exceptions.md rule R306).
-/

namespace Sys2Proof.Machine

/-- What a host read of a register answers: STATUS, RESULT, and 0 for CMD and DOORBELL; `none` at any other offset (R64). -/
def registerValue (s : State) (offset : Nat) : Option Word :=
  if offset = 0x00 then some (statusWord s)
  else if offset = 0x04 then some s.result
  else if offset = 0x08 then some 0
  else if offset = 0x0C then some 0
  else none

/-- A host read: no side effect on the block, the value is observed (R64, R70; log 8). Any access but an aligned 32-bit one at
the four offsets is refused (R65). -/
def hostRead (s : State) (offset width : Nat) : Host.Outcome State Fault Refusal :=
  if width = 4 then
    match registerValue s offset with
    | some v => .next { s with reads := s.reads ++ [v] }
    | none => .refused .hostAccess
  else .refused .hostAccess

/-- A CMD write: OVERRUN while BUSY, else the byte is appended, or dropped with POVF set when the buffer is full (R90, R306). -/
def cmdWrite (s : State) (v : Word) : State :=
  if s.busy then s.recordErr .overrun
  else if s.plen < Config.pktMax then { s with pbuf := s.pbuf ++ [v.setWidth 8] }
  else { s with povf := true }

/-- A DOORBELL write: OVERRUN while BUSY, else the packet is taken with its mark, the buffer emptied, and the operation starts
(R91, R306). -/
def doorbellWrite (s : State) : State :=
  if s.busy then s.recordErr .overrun
  else State.accept { s with pbuf := [], povf := false } ⟨s.pbuf, s.povf⟩

/-- A host write: CMD and DOORBELL act, a write to STATUS or RESULT is ignored (R64), any other access is refused (R65). -/
def hostWrite (s : State) (offset width : Nat) (v : Word) : Host.Outcome State Fault Refusal :=
  if width = 4 then
    if offset = 0x00 then .next s
    else if offset = 0x04 then .next s
    else if offset = 0x08 then .next (cmdWrite s v)
    else if offset = 0x0C then .next (doorbellWrite s)
    else .refused .hostAccess
  else .refused .hostAccess

/-- One host access (R64). -/
def hostAccess (s : State) (a : HostAccess) : Host.Outcome State Fault Refusal :=
  match a with
  | .read offset width => hostRead s offset width
  | .write offset width v => hostWrite s offset width v

/-- The offset in the 16-byte window at BLOCK_BASE of an address of the host's address space; `none` for an address outside the
window, an access to which is not an access to this block (R64, R71; log 11). -/
def windowOffset (b : Build) (addr : Nat) : Option Nat :=
  if b.blockBase ≤ addr ∧ addr < b.blockBase + 16 then some (addr - b.blockBase) else none

end Sys2Proof.Machine
end

