-- ==== Sys2Proof/Machine/Sequencer.lean ====
section
/-!
DEFINITION. Machine/Sequencer.lean: one turn of the sequencer (30_encoding.md rules R91, R106; 60_exceptions.md rule R305), one
input (60_exceptions.md rule R311), and a packet placed for the next turn.
-/

namespace Sys2Proof.Machine

/-- One turn of the sequencer: idle it does nothing (log 22); else it decodes the packet SEQ holds, and either records the
decode's error and aborts (R303, R305 steps 1 to 4) or takes the operation's next step (R305 steps 5 to 7). -/
def sequencerTurn (s : State) : Host.Outcome State Fault Refusal :=
  match s.seq with
  | .idle => .next s
  | .exec p _ _ =>
    match decode s.build.variant p.bytes p.povf with
    | .error e => .next (s.raise e)
    | .ok i => exec i s

/-- One input, or the sequencer's turn where the schedule gives it (log 4). -/
def takeInput (s : State) (x : Input) : Host.Outcome State Fault Refusal :=
  match x with
  | .host a => hostAccess s a
  | .blockReset => .next s.blockReset
  | .turn => sequencerTurn s

/-- The next step: the next scheduled input, or the sequencer's turn when none is scheduled (log 4). -/
def advance (s : State) : Host.Outcome State Fault Refusal :=
  match s.inputs with
  | [] => sequencerTurn s
  | x :: rest => takeInput { s with inputs := rest } x

/-- The packet just accepted, and the sequencer's turn next (log 14). -/
def placePacket (s : State) (p : List Byte) : State :=
  State.accept { s with inputs := .turn :: s.inputs } ⟨p, false⟩

end Sys2Proof.Machine
end

