-- ==== Sys2Proof/Machine/Step.lean ====
section
/-!
DEFINITION. Machine/Step.lean: the step of the machine, and the placing of a table word (log 14).
-/

namespace Sys2Proof.Machine

/-- One step of the block and what surrounds it. -/
def step (s : State) : Host.Outcome State Fault Refusal := advance s

/-- `s` with the table's word as the packet just accepted, so that the next step is the first step of executing it: the model
loads no program, its packets come from the host through CMD and DOORBELL (R80), and this stands for that submission (log 14). -/
def State.withFetchWord (s : State) (nbits w : Nat) : State := placePacket s (tablePacket nbits w)

end Sys2Proof.Machine
end

