-- ==== Sys2Proof/Safety.lean ====
section
/-!
DEFINITION. Safety.lean: the terms claims are stated in: which operation is executing, the transport events it is to emit, the
invariant of the machine, the legal changes of PWR, and repeated sequencer steps of one operation.
-/

namespace Sys2Proof.Machine

/-- The sequencer is executing operation `i` (R44, R91, R106). -/
def Executing (s : State) (i : Instr) : Prop :=
  ∃ p k f, s.seq = .exec p k f ∧ decode s.build.variant p.bytes p.povf = .ok i

/-- The transport events operation `i` emits when started in state `s` (R175, R177, R182 to R188); operations of the framebuffer,
the rasterizer and the font blitter emit none (R44). -/
def eventList (i : Instr) (s : State) : List TxEvent :=
  match i with
  | .init => initEvents s.build
  | .display =>
    match s.pwr with
    | .highPower => displayEvents s.build s.fb
    | .lowPower => displayEvents s.build s.fb
    | .uninitialized => []
    | .initializing => []
    | .sleeping => []
  | .hpm => if s.pwr = .lowPower then [.cmd s.build.cmds.hpm] else []
  | .lpm => if s.pwr = .highPower then [.cmd s.build.cmds.lpm] else []
  | .sleep eb =>
    if enabled eb then
      if s.pwr = .lowPower then sleepInFromLowEvents s.build
      else if s.pwr = .highPower then sleepInEvents s.build else []
    else if s.pwr = .sleeping then wakeEvents s.build else []
  | .invert eb => [.cmd (if enabled eb then s.build.cmds.invon else s.build.cmds.invoff)]
  | .dispon eb => [.cmd (if enabled eb then s.build.cmds.dispon else s.build.cmds.dispoff)]
  | .nop => []
  | .clearErr => []
  | .plotRaw _ _ _ => []
  | .drawPixel _ _ _ => []
  | .drawPixelGray _ _ _ => []
  | .readPixel _ _ => []
  | .fill _ => []
  | .setRot _ => []
  | .line _ _ _ _ _ => []
  | .rect _ _ _ _ _ => []
  | .fillRect _ _ _ _ _ => []
  | .circle _ _ _ _ => []
  | .fillCircle _ _ _ _ => []
  | .triangle _ _ _ _ _ _ _ => []
  | .fillTriangle _ _ _ _ _ _ _ => []
  | .drawChar _ _ _ _ => []
  | .drawString _ _ _ _ => []
  | .stringWidth _ => []

/-- The operations whose commit changes the framebuffer (R35). -/
def writesFb (i : Instr) : Bool :=
  match i with
  | .plotRaw _ _ _ => true
  | .drawPixel _ _ _ => true
  | .drawPixelGray _ _ _ => true
  | .fill _ => true
  | .line _ _ _ _ _ => true
  | .rect _ _ _ _ _ => true
  | .fillRect _ _ _ _ _ => true
  | .circle _ _ _ _ => true
  | .fillCircle _ _ _ _ => true
  | .triangle _ _ _ _ _ _ _ => true
  | .fillTriangle _ _ _ _ _ _ _ => true
  | .drawChar _ _ _ _ => true
  | .drawString _ _ _ _ => true
  | .nop => false
  | .clearErr => false
  | .readPixel _ _ => false
  | .setRot _ => false
  | .init => false
  | .display => false
  | .hpm => false
  | .lpm => false
  | .sleep _ => false
  | .invert _ => false
  | .dispon _ => false
  | .stringWidth _ => false

/-! ### The invariant -/

/-- FB is in its canonical form and inside its space (R35, R61). -/
def FbCanonical (s : State) : Prop := s.fb.wf = true ∧ s.fb.below s.build.fbLen = true

/-- The packet buffer holds at most PKT_MAX bytes, and POVF is set only when it is full (R43, R90). -/
def BufferBounded (s : State) : Prop :=
  s.plen ≤ Config.pktMax ∧ (s.povf = true → s.plen = Config.pktMax)

/-- ERR is 1 exactly when ERR_CODE names an error (R39, R301). -/
def ErrConsistent (s : State) : Prop := s.err = true ↔ s.errCode ≠ .noError

/-- PWR is INITIALIZING exactly while an INIT executes (R33, R38, R175). -/
def InitializingIffInit (s : State) : Prop := s.pwr = .initializing ↔ Executing s .init

/-- CS_N is low exactly while a frame is in progress (R45, R171). -/
def BusSelectTracksFrame (s : State) : Prop :=
  s.csN = false ↔ ∃ p k e, s.seq = .exec p k (some e) ∧ e.isFrame = true

/-- The sequencer is on its operation's event list: at most all events are done, and the event in flight is the next one of the
list; a packet that does not decode has emitted none (R44, R77, R303). -/
def OnEventList (s : State) : Prop :=
  ∀ p k f, s.seq = .exec p k f →
    match decode s.build.variant p.bytes p.povf with
    | .ok i => k ≤ (eventList i s).length ∧ ∀ e, f = some e → (eventList i s)[k]? = some e
    | .error _ => k = 0 ∧ f = none

/-- What holds of the block in every state a run reaches. -/
structure BlockInv (s : State) : Prop where
  fb : FbCanonical s
  buffer : BufferBounded s
  err : ErrConsistent s
  initializing : InitializingIffInit s
  busSelect : BusSelectTracksFrame s
  onList : OnEventList s

/-! ### Power transitions -/

/-- The changes of PWR that R191 lists for the operations: what INIT, HPM, LPM, SLEEP and a transport failure do. -/
def PowerEdge : Power → Power → Prop
  | _, .initializing => True
  | .initializing, .highPower => True
  | .initializing, .uninitialized => True
  | .lowPower, .highPower => True
  | .highPower, .lowPower => True
  | .highPower, .sleeping => True
  | .lowPower, .sleeping => True
  | .sleeping, .highPower => True
  | .highPower, .uninitialized => True
  | .lowPower, .uninitialized => True
  | .sleeping, .uninitialized => True
  | _, _ => False

/-! ### Runs of one operation -/

/-- `n` sequencer steps of operation `i`, stopping at the first fault or refusal. -/
def execTimes (i : Instr) : Nat → State → Host.Outcome State Fault Refusal
  | 0, s => .next s
  | n + 1, s =>
    match exec i s with
    | .next t => execTimes i n t
    | .fault f => .fault f
    | .refused r => .refused r

/-- The transport answers the next `n` fallible events of the schedule with ok, and `rest` is what it answers after them. -/
def AnswersOk (s : State) (n : Nat) (rest : List Bool) : Prop := s.answers = List.replicate n true ++ rest

/-- How many events of a list the transport has to answer (R170, R174). -/
def fallible (evs : List TxEvent) : Nat := (evs.filter TxEvent.canFail).length

/-- The level of DC after the frames of a list, from a level before them (R45, R171). -/
def dcAfter (d : Bool) : List TxEvent → Bool
  | [] => d
  | .cmd _ :: rest => dcAfter false rest
  | .data _ :: rest => dcAfter true rest
  | .burst _ :: rest => dcAfter true rest
  | .txSetup :: rest => dcAfter d rest
  | .rst _ :: rest => dcAfter d rest
  | .delay _ :: rest => dcAfter d rest

/-- The level of RST_N after a list of events, from a level before them (R45, R170). -/
def rstAfter (r : Bool) : List TxEvent → Bool
  | [] => r
  | .rst v :: rest => rstAfter v rest
  | .cmd _ :: rest => rstAfter r rest
  | .data _ :: rest => rstAfter r rest
  | .burst _ :: rest => rstAfter r rest
  | .txSetup :: rest => rstAfter r rest
  | .delay _ :: rest => rstAfter r rest

/-- The state in which the events of a list have all completed with ok: the trace has them, the pins stand as they left them. -/
def State.afterEvents (s : State) (evs : List TxEvent) (rest : List Bool) : State :=
  { s with
    trace := s.trace ++ evs.map fun e => (e, .ok)
    rstN := rstAfter s.rstN evs
    dc := dcAfter s.dc evs
    answers := rest }

/-! ### Pixels -/

/-- The value of physical pixel `q` in a framebuffer (R142), without the index check of R62. -/
def pixelAt (b : Build) (m : Memory) (q : Point) : Nat :=
  pixelValue b.variant q.1.toNat q.2.toNat (m.read (pixelIndex b q.1.toNat q.2.toNat))

/-- The bits of its byte that physical pixel (x, y) owns (R130, R132, R133). -/
def pixelBits (v : Variant) (x y : Nat) : List Nat :=
  match v with
  | .mono1 => [monoBit x y]
  | .gray2 => [bitA x y, bitB x y]

/-- The value a pixel of colour `c` reads back: 0 or 1 in MONO1, 0 or 3 in GRAY2 (R22, R149). -/
def colourValue (v : Variant) (c : Bool) : Nat :=
  match v with
  | .mono1 => c.toNat
  | .gray2 => 3 * c.toNat

/-- The logical canvas `D_r` (R26, R139). -/
def onCanvas (b : Build) (r : BitVec 2) (p : Point) : Prop :=
  if r = 0 ∨ r = 2 then 0 ≤ p.1 ∧ p.1 < b.panelW ∧ 0 ≤ p.2 ∧ p.2 < b.panelH
  else 0 ≤ p.1 ∧ p.1 < b.panelH ∧ 0 ≤ p.2 ∧ p.2 < b.panelW

/-- The inverse rotation `T_r⁻¹` (R139). -/
def unrotate (b : Build) (r : BitVec 2) (q : Point) : Point :=
  if r = 0 then q
  else if r = 1 then (q.2, (b.panelW : Int) - 1 - q.1)
  else if r = 2 then ((b.panelW : Int) - 1 - q.1, (b.panelH : Int) - 1 - q.2)
  else ((b.panelH : Int) - 1 - q.2, q.1)

/-! ### What drawing does -/

/-- The framebuffer `m` is FB of state `s` with the pixels at the logical points `ps` set to colour `c`: it is canonical, those
pixels have the colour, every other pixel keeps its value (R137, R220), and every byte that holds none of them is unchanged (R68). -/
def Painted (s : State) (ps : List Point) (c : Bool) (m : Memory) : Prop :=
  FbCanonical { s with fb := m } ∧
  (∀ q, inBounds s.build q = true →
    ((∃ p ∈ ps, rotate s.build s.rot p = q) → pixelAt s.build m q = colourValue s.build.variant c) ∧
    ((¬ ∃ p ∈ ps, rotate s.build s.rot p = q) → pixelAt s.build m q = pixelAt s.build s.fb q)) ∧
  (∀ a, (∀ p ∈ ps, inBounds s.build (rotate s.build s.rot p) = true →
      a ≠ pixelIndex s.build (rotate s.build s.rot p).1.toNat (rotate s.build s.rot p).2.toNat) →
    m.read a = s.fb.read a)

/-- Operation `i` always completes by painting the logical points `ps` in the colour of byte `cb`, and changes nothing else but
SEQ, which becomes idle. -/
def PaintsPoints (i : Instr) (ps : List Point) (cb : Byte) : Prop :=
  ∀ s : State, FbCanonical s →
    ∃ m, exec i s = .next { s with fb := m, seq := .idle } ∧ Painted s ps (decide (cb ≠ 0)) m

/-- The integer `z` lies between `a` and `b`, both included, in either order. -/
def Between (a b z : Int) : Prop := min a b ≤ z ∧ z ≤ max a b

/-- The host's next access is outside the port's contract (R65). -/
def IllegalAccess (a : HostAccess) : Prop :=
  match a with
  | .read offset width => ¬ (width = 4 ∧ offset ∈ [0x00, 0x04, 0x08, 0x0C])
  | .write offset width _ => ¬ (width = 4 ∧ offset ∈ [0x00, 0x04, 0x08, 0x0C])

/-- The next step is the sequencer's turn. -/
def SequencersTurn (s : State) : Prop := s.inputs = [] ∨ s.inputs.head? = some .turn

/-- The next step is a block reset. -/
def ResetNext (s : State) : Prop := s.inputs.head? = some .blockReset

/-- The host accesses that submit a packet: its bytes to CMD in order, then DOORBELL (R90, R91, R110). -/
def submission (p : List Byte) : List Input :=
  (p.map fun b => .host (.write 0x08 4 (b.setWidth 32))) ++ [.host (.write 0x0C 4 0)]

/-- The opcode values that R105 lists as reserved. -/
def ReservedOpcode (op : Byte) : Prop :=
  (0x02 ≤ op.toNat ∧ op.toNat ≤ 0x0F) ∨ (0x16 ≤ op.toNat ∧ op.toNat ≤ 0x1F) ∨ (0x27 ≤ op.toNat ∧ op.toNat ≤ 0x2F) ∨
  (0x37 ≤ op.toNat ∧ op.toNat ≤ 0x3F) ∨ 0x43 ≤ op.toNat

end Sys2Proof.Machine
end

