-- ==== Sys2Proof/Certificates/Slice0/Obligations.lean ====
section
/-!
DEFINITION. Certificates/Slice0/Obligations.lean: the statements for the provers, from the spec's numbered rules. A statement of
an operation's result says the whole next state, so its frame with it: every field not named is as it was. -/

open Sys2Proof Sys2Proof.Machine

/-! ### Packets (30_encoding.md) -/

/-- R92, R93, R96, R105, R106: every operation a packet can carry decodes from its own packet, with every operand. -/
def Obligations.DecodeOfEncode : Prop :=
  ∀ (v : Variant) (i : Instr), i.wellFormed = true → i.existsIn v = true → decode v (encode i) false = .ok i

/-- R92, R106, R107: a packet that decodes is the packet of the operation it decodes to, so no byte of it is ignored; and a packet
that overflowed the buffer never decodes. -/
def Obligations.EncodeOfDecode : Prop :=
  ∀ (v : Variant) (p : List Byte) (povf : Bool) (i : Instr), decode v p povf = .ok i →
    povf = false ∧ encode i = p ∧ i.wellFormed = true ∧ i.existsIn v = true

/-- R108: a packet with a reserved opcode is BAD_OPCODE, whatever follows the opcode; only ERR and ERR_CODE change, and the
operation ends. -/
def Obligations.ReservedOpcodeOnlyRecords : Prop :=
  ∀ (s : State) (op : Byte) (rest : List Byte) (povf : Bool) (k : Nat) (f : Option TxEvent),
    ReservedOpcode op → s.inputs = [] → s.seq = .exec ⟨op :: rest, povf⟩ k f →
    step s = .next { s with err := true, errCode := if s.err then s.errCode else .badOpcode, seq := .idle }

/-- R106: the decode refuses an empty packet, then a reserved opcode, then DRAW_PIXEL_GRAY in MONO1, then an overflow or a length
that is not the format's, and gives what is left the operation and the fields of its row. -/
def Obligations.DecodeChecksInOrder : Prop :=
  ∀ (v : Variant) (povf : Bool) (op : Byte) (rest : List Byte),
    decode v [] povf = .error .badLength ∧
    (ReservedOpcode op → decode v (op :: rest) povf = .error .badOpcode) ∧
    (op = 0x12 → v = .mono1 → decode v (op :: rest) povf = .error .unsupported) ∧
    (¬ ReservedOpcode op → ¬ (op = 0x12 ∧ v = .mono1) →
      ∃ row, opRow op = some row ∧
        ((povf = true ∨ row.format.length (op :: rest) ≠ some (rest.length + 1)) →
          decode v (op :: rest) povf = .error .badLength) ∧
        (povf = false → row.format.length (op :: rest) = some (rest.length + 1) →
          decode v (op :: rest) povf = .ok (row.make (op :: rest))))

/-- R111: the worked examples of the encoding, in both directions. -/
def Obligations.WorkedPacketsDecode : Prop :=
  let worked : Instr → List Byte → Prop := fun i p => encode i = p ∧ ∀ v, decode v p false = .ok i
  worked (.drawPixel 0 0 1) [0x11, 0x00, 0x00, 0x00, 0x00, 0x01] ∧
  worked (.line (-1) 2 300 4 1) [0x30, 0xFF, 0xFF, 0x02, 0x00, 0x2C, 0x01, 0x04, 0x00, 0x01] ∧
  worked (.circle 20 30 5 0) [0x33, 0x14, 0x00, 0x1E, 0x00, 0x05, 0x00, 0x00] ∧
  worked (.drawString 10 20 1 [0x48, 0x69]) [0x41, 0x0A, 0x00, 0x14, 0x00, 0x01, 0x02, 0x48, 0x69] ∧
  worked (.stringWidth []) [0x42, 0x00] ∧
  worked (.setRot 1) [0x15, 0x01]

/-! ### The step and the host port (20_memory.md, 30_encoding.md, 60_exceptions.md) -/

/-- R44, R91, R106: when the packet in SEQ decodes to `i`, a sequencer turn is the next step of `i`, with the turn taken off the
schedule where one was scheduled. The schedule is the model's (log 4). -/
def Obligations.StepRunsDecodedOperation : Prop :=
  ∀ (s : State) (i : Instr), Executing s i →
    (s.inputs = [] → step s = exec i s) ∧
    (∀ rest, s.inputs = .turn :: rest → step s = exec i { s with inputs := rest })

/-- R90, R91: an idle block with an empty buffer, given a packet's bytes at CMD and a DOORBELL, is executing exactly that packet,
with BUSY 1, the buffer empty, PWR shown as INITIALIZING exactly for an INIT, and nothing else changed. The schedule of inputs and
the moment PWR changes are the model's (log 4, log 15). -/
def Obligations.SubmittedPacketStarts : Prop :=
  ∀ (s : State) (p : List Byte) (rest : List Input),
    s.seq = .idle → s.pbuf = [] → s.povf = false → p.length ≤ Config.pktMax → s.inputs = submission p ++ rest →
    Host.Core.run core (p.length + 1) s =
      .next { s with
        seq := .exec ⟨p, false⟩ 0 none
        pwr := if decode s.build.variant p false = .ok .init then .initializing else s.pwr
        inputs := rest }

/-- R90: a CMD write to an idle block appends the low byte, or sets POVF and drops it when the buffer is full; while BUSY it drops
the byte and records OVERRUN. -/
def Obligations.CmdWriteAppends : Prop :=
  ∀ (s : State) (v : Word),
    (s.seq = .idle → hostWrite s 0x08 4 v =
      .next (if s.pbuf.length < 262 then { s with pbuf := s.pbuf ++ [v.setWidth 8] } else { s with povf := true })) ∧
    (s.seq ≠ .idle → hostWrite s 0x08 4 v =
      .next { s with err := true, errCode := if s.err then s.errCode else .overrun })

/-- R91: a DOORBELL write to an idle block takes the buffer with its mark, empties it and starts the sequencer, whatever the value
written. That PWR shows INITIALIZING at once for an INIT is the model's reading of R37 and R38 (log 15). -/
def Obligations.DoorbellTakesThePacket : Prop :=
  ∀ (s : State) (v : Word), s.seq = .idle →
    ∃ t, hostWrite s 0x0C 4 v = .next t ∧
      t = { s with pbuf := [], povf := false, seq := .exec ⟨s.pbuf, s.povf⟩ 0 none, pwr := t.pwr } ∧
      t.busy = true ∧
      (decode s.build.variant s.pbuf s.povf = .ok .init → t.pwr = .initializing) ∧
      (decode s.build.variant s.pbuf s.povf ≠ .ok .init → t.pwr = s.pwr)

/-- R306: a CMD or DOORBELL write while BUSY records OVERRUN if no error is recorded, and does nothing else. -/
def Obligations.WriteWhileBusyOverruns : Prop :=
  ∀ (s : State) (v : Word), s.seq ≠ .idle →
    ∀ offset ∈ [0x08, 0x0C],
      hostWrite s offset 4 v = .next { s with err := true, errCode := if s.err then s.errCode else .overrun }

/-- R40, and the fields of R36: STATUS holds BUSY, PWR, ROT, ERR, ERR_CODE and VARIANT in their places, 0 in bits 7 and 31:13, and
no ERR_CODE outside R301. -/
def Obligations.StatusFields : Prop :=
  ∀ s : State,
    ((statusWord s).getLsbD 0 = true ↔ s.seq ≠ .idle) ∧
    ((statusWord s).extractLsb' 1 3).toNat = s.pwr.code ∧
    (statusWord s).extractLsb' 4 2 = s.rot ∧
    (statusWord s).getLsbD 6 = s.err ∧
    (statusWord s).getLsbD 7 = false ∧
    ((statusWord s).extractLsb' 8 4).toNat = errCodeValue s.errCode ∧
    errCodeValue s.errCode ≤ 7 ∧
    ((statusWord s).getLsbD 12 = true ↔ s.build.variant = .gray2) ∧
    (statusWord s).extractLsb' 13 19 = 0

/-- R64, R70: host reads answer STATUS, RESULT, and 0 for CMD and DOORBELL, with no effect on the block; writes to STATUS and RESULT
are ignored. That the answers are collected in `reads` is the model's (log 8). -/
def Obligations.HostReadsAndIgnoredWrites : Prop :=
  ∀ (s : State) (v : Word),
    hostRead s 0x00 4 = .next { s with reads := s.reads ++ [statusWord s] } ∧
    hostRead s 0x04 4 = .next { s with reads := s.reads ++ [s.result] } ∧
    hostRead s 0x08 4 = .next { s with reads := s.reads ++ [0] } ∧
    hostRead s 0x0C 4 = .next { s with reads := s.reads ++ [0] } ∧
    hostWrite s 0x00 4 v = .next s ∧ hostWrite s 0x04 4 v = .next s

/-- R65: any access but an aligned 32-bit one at offsets 0x00, 0x04, 0x08, 0x0C is refused, and no other is. -/
def Obligations.AccessOutsideContractRefused : Prop :=
  ∀ (s : State) (a : HostAccess) (rest : List Input), s.inputs = .host a :: rest →
    (IllegalAccess a ↔ step s = .refused .hostAccess)

/-! ### Errors (60_exceptions.md) -/

/-- R303: a packet that fails the decode's checks ends with the error recorded and nothing else changed. -/
def Obligations.FailedDecodeOnlyRecords : Prop :=
  ∀ (s : State) (p : Packet) (k : Nat) (f : Option TxEvent) (c : ErrCode),
    s.inputs = [] → s.seq = .exec p k f → decode s.build.variant p.bytes p.povf = .error c →
    step s = .next { s with err := true, errCode := if s.err then s.errCode else c, seq := .idle }

/-- R175, R303, R304: every BAD_STATE cell of the table records BAD_STATE and changes nothing else, and every no-op cell commits
with no event, no error and no change. -/
def Obligations.PowerTableRefusesOrIgnores : Prop :=
  ∀ (s : State) (eb : Byte),
    let refusal : Host.Outcome State Fault Refusal :=
      .next { s with err := true, errCode := if s.err then s.errCode else .badState, seq := .idle }
    (s.pwr ∈ [.uninitialized, .sleeping] → exec .display s = refusal ∧ exec .hpm s = refusal ∧ exec .lpm s = refusal) ∧
    (s.pwr = .uninitialized → exec (.sleep eb) s = refusal) ∧
    (s.pwr = .highPower → exec .hpm s = .next { s with seq := .idle }) ∧
    (s.pwr = .lowPower → exec .lpm s = .next { s with seq := .idle }) ∧
    (s.pwr = .sleeping → eb ≠ 0 → exec (.sleep eb) s = .next { s with seq := .idle }) ∧
    (s.pwr ∈ [.highPower, .lowPower] → exec (.sleep 0) s = .next { s with seq := .idle })

/-- R308: when an operation's event completes with fail, no further event is emitted, TRANSPORT_FAIL is recorded, PWR becomes
UNINITIALIZED, a frame's CS_N is released, and nothing else of the block changes. The trace and the completion taken are the model's
record of it (log 5, log 7). -/
def Obligations.TransportFailAborts : Prop :=
  ∀ (i : Instr) (s : State) (p : Packet) (k : Nat) (e : TxEvent),
    s.seq = .exec p k (some e) → (eventList i s)[k]? = some e → e.canFail = true → s.nextAnswer = false →
    exec i s = .next { s with
      pwr := .uninitialized, err := true, errCode := if s.err then s.errCode else .transportFail
      seq := .idle, csN := s.csN || e.isFrame, trace := s.trace ++ [(e, .fail)]
      answers := s.answers.tail, freeCount := if s.answers = [] then s.freeCount + 1 else s.freeCount }

/-- R189, R190: NOP changes nothing, CLEAR_ERR clears ERR and ERR_CODE and nothing else; both end the operation. Each is a packet of
one byte; a longer packet is BAD_LENGTH, which leaves a recorded error as it is. -/
def Obligations.HousekeepingResults : Prop :=
  (∀ s : State,
    exec .nop s = .next { s with seq := .idle } ∧
    exec .clearErr s = .next { s with err := false, errCode := .noError, seq := .idle }) ∧
  (∀ v, decode v [0x00] false = .ok .nop ∧ decode v [0x01] false = .ok .clearErr) ∧
  (∀ (s : State) (op b : Byte) (rest : List Byte) (povf : Bool) (k : Nat) (f : Option TxEvent),
    op ∈ ([0x00, 0x01] : List Byte) → s.inputs = [] → s.seq = .exec ⟨op :: b :: rest, povf⟩ k f →
    step s = .next { s with err := true, errCode := if s.err then s.errCode else .badLength, seq := .idle })

/-! ### The decoder, the rotation and the pixel operations (40_framebuffer.md) -/

/-- R136: every in-bounds pixel has a byte of the framebuffer and its own bits of it (one in MONO1, two different ones in GRAY2),
and every bit of every framebuffer byte belongs to exactly one in-bounds pixel; in MONO1 these are 64512 pixels and 8064 bytes. -/
def Obligations.DecoderIsBijective : Prop :=
  ∀ b : Build,
    (∀ q, inBounds b q = true → pixelIndex b q.1.toNat q.2.toNat < b.fbLen) ∧
    (∀ x y : Nat, (pixelBits b.variant x y).Nodup ∧ ∀ k ∈ pixelBits b.variant x y, k < 8) ∧
    (∀ a < b.fbLen, ∀ k < 8, ∃! q : Point, inBounds b q = true ∧ pixelIndex b q.1.toNat q.2.toNat = a ∧
      k ∈ pixelBits b.variant q.1.toNat q.2.toNat) ∧
    (∀ x y : Nat, (pixelBits b.variant x y).length = if b.variant = .mono1 then 1 else 2) ∧
    (b.variant = .mono1 → b.fbLen = 8064 ∧ b.panelW * b.panelH = 64512)

/-- R139: each rotation maps the logical canvas one-to-one onto the physical grid with the inverse the rule gives, and every point
outside the canvas to a point outside the grid; rotation 3 undoes rotation 1 only on a square panel. -/
def Obligations.RotationIsBijective : Prop :=
  ∀ (b : Build) (r : BitVec 2),
    (∀ p, onCanvas b r p ↔ inBounds b (rotate b r p) = true) ∧
    (∀ p, unrotate b r (rotate b r p) = p) ∧ (∀ q, rotate b r (unrotate b r q) = q) ∧
    ((∀ p, rotate b 3 (rotate b 1 p) = p) ↔ b.panelW = b.panelH)

/-- R137, R68: a physical write changes the pixel's own bits and nothing else, and outside the panel changes nothing; it never
faults. -/
def Obligations.PhysicalWriteOwnsItsBits : Prop :=
  ∀ (b : Build) (m : Memory) (q : Point), m.wf = true → m.below b.fbLen = true →
    (∀ c, ∃ m', writePhys b m q c = .ok m' ∧ m'.wf = true ∧ m'.below b.fbLen = true ∧
      (inBounds b q = false → m' = m) ∧
      (∀ a, (inBounds b q = true → a ≠ pixelIndex b q.1.toNat q.2.toNat) → m'.read a = m.read a) ∧
      (inBounds b q = true → ∀ k < 8, (m'.read (pixelIndex b q.1.toNat q.2.toNat)).getLsbD k =
        if k ∈ pixelBits b.variant q.1.toNat q.2.toNat then c else (m.read (pixelIndex b q.1.toNat q.2.toNat)).getLsbD k)) ∧
    (∀ g : Byte, b.variant = .gray2 → ∃ m', writePhysGray b m q g = .ok m' ∧ m'.wf = true ∧ m'.below b.fbLen = true ∧
      (inBounds b q = false → m' = m) ∧
      (∀ a, (inBounds b q = true → a ≠ pixelIndex b q.1.toNat q.2.toNat) → m'.read a = m.read a) ∧
      (inBounds b q = true → ∀ k < 8, (m'.read (pixelIndex b q.1.toNat q.2.toNat)).getLsbD k =
        if k = bitA q.1.toNat q.2.toNat then g.getLsbD 1
        else if k = bitB q.1.toNat q.2.toNat then g.getLsbD 0
        else (m.read (pixelIndex b q.1.toNat q.2.toNat)).getLsbD k))

/-- R143: PLOT_RAW, opcode 0x10 in format PB, writes the physical pixel, without rotation, and nothing else; out of bounds it
changes nothing but SEQ. -/
def Obligations.PlotRawResult : Prop :=
  ∀ (x y : Half) (cb : Byte) (s : State), FbCanonical s →
    encode (.plotRaw x y cb) = [0x10, x.setWidth 8, (x >>> 8).setWidth 8, y.setWidth 8, (y >>> 8).setWidth 8, cb] ∧
    ∃ m, exec (.plotRaw x y cb) s = .next { s with fb := m, seq := .idle } ∧
      FbCanonical { s with fb := m } ∧
      (∀ q, inBounds s.build q = true → pixelAt s.build m q =
        if q = (x.toInt, y.toInt) then colourValue s.build.variant (decide (cb ≠ 0)) else pixelAt s.build s.fb q) ∧
      (∀ a, (inBounds s.build (x.toInt, y.toInt) = true → a ≠ pixelIndex s.build x.toInt.toNat y.toInt.toNat) →
        m.read a = s.fb.read a)

/-- R144: DRAW_PIXEL, opcode 0x11 in format PB, writes the pixel at the rotated point and nothing else. -/
def Obligations.DrawPixelResult : Prop :=
  ∀ (x y : Half) (cb : Byte),
    encode (.drawPixel x y cb) = [0x11, x.setWidth 8, (x >>> 8).setWidth 8, y.setWidth 8, (y >>> 8).setWidth 8, cb] ∧
    PaintsPoints (.drawPixel x y cb) [(x.toInt, y.toInt)] cb

/-- R145: in GRAY2, DRAW_PIXEL_GRAY with a level up to 3 writes the level at the rotated point and nothing else. -/
def Obligations.DrawPixelGrayResult : Prop :=
  ∀ (x y : Half) (g : Byte) (s : State), FbCanonical s → s.build.variant = .gray2 → g.toNat ≤ 3 →
    let z := rotate s.build s.rot (x.toInt, y.toInt)
    ∃ m, exec (.drawPixelGray x y g) s = .next { s with fb := m, seq := .idle } ∧
      FbCanonical { s with fb := m } ∧
      (∀ q, inBounds s.build q = true → pixelAt s.build m q = if q = z then g.toNat else pixelAt s.build s.fb q) ∧
      (∀ a, (inBounds s.build z = true → a ≠ pixelIndex s.build z.1.toNat z.2.toNat) → m.read a = s.fb.read a)

/-- R145, R303: DRAW_PIXEL_GRAY with a level above 3 is BAD_OPERAND in GRAY2, and in MONO1 the operation is UNSUPPORTED; either way
only the error is recorded. In MONO1 the decode refuses the packet first; the meaning raises the error too (log 27). -/
def Obligations.DrawPixelGrayErrors : Prop :=
  ∀ (x y : Half) (g : Byte) (s : State),
    (s.build.variant = .gray2 → 3 < g.toNat → exec (.drawPixelGray x y g) s =
      .next { s with err := true, errCode := if s.err then s.errCode else .badOperand, seq := .idle }) ∧
    (s.build.variant = .mono1 → exec (.drawPixelGray x y g) s =
      .next { s with err := true, errCode := if s.err then s.errCode else .unsupported, seq := .idle })

/-- R146: READ_PIXEL, opcode 0x13 in format P, puts the value of the pixel at the rotated point in RESULT, or 0xFFFFFFFF where that
point is out of bounds, and changes nothing else. -/
def Obligations.ReadPixelResult : Prop :=
  ∀ (x y : Half) (s : State),
    let z := rotate s.build s.rot (x.toInt, y.toInt)
    encode (.readPixel x y) = [0x13, x.setWidth 8, (x >>> 8).setWidth 8, y.setWidth 8, (y >>> 8).setWidth 8] ∧
    exec (.readPixel x y) s = .next { s with
      result := if inBounds s.build z = true then BitVec.ofNat 32 (pixelAt s.build s.fb z) else 0xFFFFFFFF
      seq := .idle }

/-- R147: FILL, opcode 0x14 in format B, sets every framebuffer byte to its operand and changes nothing else. -/
def Obligations.FillResult : Prop :=
  ∀ (a : Byte) (s : State), encode (.fill a) = [0x14, a] ∧
    ∃ m, exec (.fill a) s = .next { s with fb := m, seq := .idle } ∧ FbCanonical { s with fb := m } ∧
      ∀ k < s.build.fbLen, m.read k = a

/-- R148: SET_ROT, opcode 0x15 in format B, stores its operand's two low bits in ROT and changes nothing else, so pixels already
drawn keep their place. -/
def Obligations.SetRotResult : Prop :=
  ∀ (a : Byte) (s : State), encode (.setRot a) = [0x15, a] ∧
    ∃ r, exec (.setRot a) s = .next { s with rot := r, seq := .idle } ∧ r.toNat = (a &&& 3).toNat

/-- R149: a pixel drawn on the logical canvas after SET_ROT reads back what was drawn. -/
def Obligations.DrawnPixelReadsBack : Prop :=
  ∀ (a : Byte) (x y : Half) (s : State), FbCanonical s →
    ∃ s1, exec (.setRot a) s = .next s1 ∧
      (onCanvas s1.build s1.rot (x.toInt, y.toInt) →
        (∀ cb : Byte, ∃ s2 s3, exec (.drawPixel x y cb) s1 = .next s2 ∧ exec (.readPixel x y) s2 = .next s3 ∧
          s3.result.toNat = colourValue s.build.variant (decide (cb ≠ 0))) ∧
        (∀ g : Byte, s.build.variant = .gray2 → g.toNat ≤ 3 →
          ∃ s2 s3, exec (.drawPixelGray x y g) s1 = .next s2 ∧ exec (.readPixel x y) s2 = .next s3 ∧
            s3.result.toNat = g.toNat))

/-- R150: after FILL 0x00 every in-bounds pixel reads off, after FILL 0xFF every one reads on. -/
def Obligations.FilledPixelsReadBack : Prop :=
  ∀ (x y : Half) (s : State), onCanvas s.build s.rot (x.toInt, y.toInt) →
    (∃ s1 s2, exec (.fill 0x00) s = .next s1 ∧ exec (.readPixel x y) s1 = .next s2 ∧ s2.result = 0) ∧
    (∃ s1 s2, exec (.fill 0xFF) s = .next s1 ∧ exec (.readPixel x y) s1 = .next s2 ∧
      s2.result.toNat = colourValue s.build.variant true)

/-! ### The rasterizer (42_rasterizer.md) -/

/-- R220, with the point generators of R223, R225, R226, R228, R229, R231 and R237: each rasterizer operation completes in every
state by setting the pixels of its points and nothing else. -/
def Obligations.RasterizerPaintsItsPoints : Prop :=
  ∀ (x0 y0 x1 y1 x2 y2 r : Half) (cb : Byte),
    let p0 : Point := (x0.toInt, y0.toInt)
    let p1 : Point := (x1.toInt, y1.toInt)
    let p2 : Point := (x2.toInt, y2.toInt)
    PaintsPoints (.line x0 y0 x1 y1 cb) (linePoints p0 p1) cb ∧
    PaintsPoints (.rect x0 y0 x1 y1 cb) (rectPoints p0 p1) cb ∧
    PaintsPoints (.fillRect x0 y0 x1 y1 cb) (fillRectPoints p0 p1) cb ∧
    PaintsPoints (.circle x0 y0 r cb) (circlePoints p0 r.toNat) cb ∧
    PaintsPoints (.fillCircle x0 y0 r cb) (fillCirclePoints p0 r.toNat) cb ∧
    PaintsPoints (.triangle x0 y0 x1 y1 x2 y2 cb) (trianglePoints p0 p1 p2) cb ∧
    PaintsPoints (.fillTriangle x0 y0 x1 y1 x2 y2 cb) (fillTrianglePoints p0 p1 p2) cb

/-- R222, R224 (a) and (b): a line contains both its endpoints, is the same list from either end, has one point for each place on
its driving axis, and is one point when the endpoints are equal. -/
def Obligations.LineEndpointsAndSymmetry : Prop :=
  ∀ p q : Point, p ∈ linePoints p q ∧ q ∈ linePoints p q ∧ linePoints p q = linePoints q p ∧
    ((linePoints p q).length : Int) = max |q.1 - p.1| |q.2 - p.2| + 1 ∧ linePoints p p = [p]

/-- R224 (c): consecutive points of a line differ by 1 in the driving axis and by 0 or 1 in the other. -/
def Obligations.LineIsConnected : Prop :=
  ∀ (p q u w : Point) (k : Nat), (linePoints p q)[k]? = some u → (linePoints p q)[k + 1]? = some w →
    (|q.1 - p.1| < |q.2 - p.2| → w.2 = u.2 + 1 ∧ |w.1 - u.1| ≤ 1) ∧
    (|q.2 - p.2| ≤ |q.1 - p.1| → w.1 = u.1 + 1 ∧ |w.2 - u.2| ≤ 1)

/-- R224 (d): horizontal and vertical lines are exact spans, a 45° line is the exact diagonal. -/
def Obligations.StraightLinesAreExact : Prop :=
  ∀ p q u : Point,
    (p.2 = q.2 → (u ∈ linePoints p q ↔ u.2 = p.2 ∧ Between p.1 q.1 u.1)) ∧
    (p.1 = q.1 → (u ∈ linePoints p q ↔ u.1 = p.1 ∧ Between p.2 q.2 u.2)) ∧
    (q.1 - p.1 = q.2 - p.2 → (u ∈ linePoints p q ↔ u.1 - p.1 = u.2 - p.2 ∧ Between p.1 q.1 u.1)) ∧
    (q.1 - p.1 = -(q.2 - p.2) → (u ∈ linePoints p q ↔ u.1 - p.1 = -(u.2 - p.2) ∧ Between p.1 q.1 u.1))

/-- R225: the points of RECT are the boundary of the box of its corners, in whatever order these are given. -/
def Obligations.RectIsBoxBoundary : Prop :=
  ∀ p q u : Point, u ∈ rectPoints p q ↔
    Between p.1 q.1 u.1 ∧ Between p.2 q.2 u.2 ∧ (u.1 = p.1 ∨ u.1 = q.1 ∨ u.2 = p.2 ∨ u.2 = q.2)

/-- R221, R226: the points of FILL_RECT are the whole box of its corners, each once. -/
def Obligations.FillRectIsBox : Prop :=
  ∀ p q : Point, (∀ u, u ∈ fillRectPoints p q ↔ Between p.1 q.1 u.1 ∧ Between p.2 q.2 u.2) ∧
    (fillRectPoints p q).Nodup ∧
    ((fillRectPoints p q).length : Int) = (|q.1 - p.1| + 1) * (|q.2 - p.2| + 1)

/-- R230: a circle of radius 0 is its centre; the points have the eight symmetries about the centre; they lie in the radius's box,
whose four axis points are among them. -/
def Obligations.CircleIsSymmetricInItsBox : Prop :=
  ∀ (c : Point) (r : Nat),
    (∀ u, u ∈ circlePoints c 0 ↔ u = c) ∧
    (∀ u v : Int, (c.1 + u, c.2 + v) ∈ circlePoints c r →
      (c.1 - u, c.2 + v) ∈ circlePoints c r ∧ (c.1 + u, c.2 - v) ∈ circlePoints c r ∧
      (c.1 - u, c.2 - v) ∈ circlePoints c r ∧ (c.1 + v, c.2 + u) ∈ circlePoints c r ∧
      (c.1 - v, c.2 + u) ∈ circlePoints c r ∧ (c.1 + v, c.2 - u) ∈ circlePoints c r ∧
      (c.1 - v, c.2 - u) ∈ circlePoints c r) ∧
    (∀ u ∈ circlePoints c r, |u.1 - c.1| ≤ r ∧ |u.2 - c.2| ≤ r) ∧
    (c.1 + (r : Int), c.2) ∈ circlePoints c r ∧ (c.1 - (r : Int), c.2) ∈ circlePoints c r ∧
    (c.1, c.2 + (r : Int)) ∈ circlePoints c r ∧ (c.1, c.2 - (r : Int)) ∈ circlePoints c r

/-- R229: a filled circle of radius 0 is its centre; it contains every point of the circle and every point between two of them on
the same row. -/
def Obligations.FilledCircleContainsCircle : Prop :=
  ∀ (c : Point) (r : Nat),
    (∀ u, u ∈ fillCirclePoints c 0 ↔ u = c) ∧
    (∀ u ∈ circlePoints c r, u ∈ fillCirclePoints c r) ∧
    (∀ (xa xb y x : Int), (xa, y) ∈ circlePoints c r → (xb, y) ∈ circlePoints c r → Between xa xb x →
      (x, y) ∈ fillCirclePoints c r)

/-- R234: an edge crosses the rows from its lower endpoint's to just before its upper endpoint's, so a horizontal edge crosses none;
and every scanline of a closed polygon has an even number of crossings. -/
def Obligations.PolygonCrossingsAreEven : Prop :=
  (∀ (lo hi : Point) (y : Int), lo.2 ≤ hi.2 →
    (crosses lo hi y = true ↔ lo.2 ≤ y ∧ y < hi.2) ∧ (crosses hi lo y = true ↔ lo.2 ≤ y ∧ y < hi.2) ∧
    (lo.2 = hi.2 → crosses lo hi y = false)) ∧
  (∀ (vs : List Point) (y : Int), (crossings vs y).length % 2 = 0)

/-- R238: the points of FILL_TRIANGLE contain those of TRIANGLE, stay in the vertices' bounding box, and are the same for every
order of the vertices (the exchange and the cycle below give all six). -/
def Obligations.FilledTriangleProperties : Prop :=
  ∀ (a b c u : Point),
    (u ∈ trianglePoints a b c → u ∈ fillTrianglePoints a b c) ∧
    (u ∈ fillTrianglePoints a b c →
      min a.1 (min b.1 c.1) ≤ u.1 ∧ u.1 ≤ max a.1 (max b.1 c.1) ∧
      min a.2 (min b.2 c.2) ≤ u.2 ∧ u.2 ≤ max a.2 (max b.2 c.2)) ∧
    (u ∈ fillTrianglePoints a b c ↔ u ∈ fillTrianglePoints b a c) ∧
    (u ∈ fillTrianglePoints a b c ↔ u ∈ fillTrianglePoints b c a)

/-- R231: the points of TRIANGLE do not depend on the order of the vertices; three equal vertices give one pixel, and collinear ones
on a row give that row's span. -/
def Obligations.TriangleOutlineProperties : Prop :=
  ∀ a b c u : Point,
    (u ∈ trianglePoints a b c ↔ u ∈ trianglePoints b a c) ∧ (u ∈ trianglePoints a b c ↔ u ∈ trianglePoints b c a) ∧
    (u ∈ trianglePoints a a a ↔ u = a) ∧
    (a.2 = b.2 → b.2 = c.2 → (u ∈ trianglePoints a b c ↔
      u.2 = a.2 ∧ min a.1 (min b.1 c.1) ≤ u.1 ∧ u.1 ≤ max a.1 (max b.1 c.1)))

/-! ### Text (43_font.md) -/

/-- R265: with a conforming font, DRAW_CHAR, opcode 0x40 in format PBB, sets the pixels of the glyph's 1 bits to the colour, and
with an opaque background those of its 0 bits to the opposite colour, and nothing else. -/
def Obligations.DrawCharPaintsGlyph : Prop :=
  ∀ (x y : Half) (ch cb : Byte) (s : State), FbCanonical s → s.build.font.Conforming →
    let font := s.build.font
    let place : Nat → Nat → Point := fun i j => rotate s.build s.rot (x.toInt + i, y.toInt + j)
    let bit : Nat → Nat → Bool → Prop := fun i j v =>
      i < font.width ∧ j < font.height ∧ glyphBit font (glyphSelect font ch) i j = .ok v
    encode (.drawChar x y ch cb) = [0x40, x.setWidth 8, (x >>> 8).setWidth 8, y.setWidth 8, (y >>> 8).setWidth 8, ch, cb] ∧
    ∃ m, exec (.drawChar x y ch cb) s = .next { s with fb := m, seq := .idle } ∧ FbCanonical { s with fb := m } ∧
      (∀ q, inBounds s.build q = true →
        ((∃ i j, bit i j true ∧ place i j = q) →
          pixelAt s.build m q = colourValue s.build.variant (decide (cb ≠ 0))) ∧
        (font.bg = .solid → (∃ i j, bit i j false ∧ place i j = q) →
          pixelAt s.build m q = colourValue s.build.variant (decide (cb = 0))) ∧
        ((¬ ∃ i j, bit i j true ∧ place i j = q) → (font.bg = .solid → ¬ ∃ i j, bit i j false ∧ place i j = q) →
          pixelAt s.build m q = pixelAt s.build s.fb q)) ∧
      (∀ a, (∀ i j, i < font.width → j < font.height → inBounds s.build (place i j) = true →
          a ≠ pixelIndex s.build (place i j).1.toNat (place i j).2.toNat) → m.read a = s.fb.read a)

/-- R267: with a conforming font, DRAW_STRING, opcode 0x41 in format PBS, draws character k as DRAW_CHAR does, with the origin moved
right by k times the glyph width plus the spacing, and nothing else. -/
def Obligations.DrawStringPaintsGlyphs : Prop :=
  ∀ (x y : Half) (cb : Byte) (chars : List Byte) (s : State), FbCanonical s → s.build.font.Conforming →
    let font := s.build.font
    let place : Nat → Nat → Nat → Point := fun k i j =>
      rotate s.build s.rot (x.toInt + k * (font.width + font.spacing) + i, y.toInt + j)
    let bit : Nat → Nat → Nat → Bool → Prop := fun k i j v =>
      ∃ ch, chars[k]? = some ch ∧ i < font.width ∧ j < font.height ∧ glyphBit font (glyphSelect font ch) i j = .ok v
    (chars.length ≤ 255 → ∀ v, decode v ([0x41, x.setWidth 8, (x >>> 8).setWidth 8, y.setWidth 8, (y >>> 8).setWidth 8, cb,
      BitVec.ofNat 8 chars.length] ++ chars) false = .ok (.drawString x y cb chars)) ∧
    ∃ m, exec (.drawString x y cb chars) s = .next { s with fb := m, seq := .idle } ∧ FbCanonical { s with fb := m } ∧
      (∀ q, inBounds s.build q = true →
        ((∃ k i j, bit k i j true ∧ place k i j = q) →
          pixelAt s.build m q = colourValue s.build.variant (decide (cb ≠ 0))) ∧
        (font.bg = .solid → (∃ k i j, bit k i j false ∧ place k i j = q) →
          pixelAt s.build m q = colourValue s.build.variant (decide (cb = 0))) ∧
        ((¬ ∃ k i j, bit k i j true ∧ place k i j = q) →
          (font.bg = .solid → ¬ ∃ k i j, bit k i j false ∧ place k i j = q) →
          pixelAt s.build m q = pixelAt s.build s.fb q)) ∧
      (∀ a, (∀ k i j, k < chars.length → i < font.width → j < font.height → inBounds s.build (place k i j) = true →
          a ≠ pixelIndex s.build (place k i j).1.toNat (place k i j).2.toNat) → m.read a = s.fb.read a)

/-- R268: STRING_WIDTH, opcode 0x42 in format S, puts the glyph width times the number of in-range characters in RESULT, with no
spacing, and changes nothing else; the largest result is 65025. -/
def Obligations.StringWidthResult : Prop :=
  ∀ (chars : List Byte) (s : State),
    let inRange := chars.countP fun ch =>
      decide (s.build.font.first.toNat ≤ ch.toNat) && decide (ch.toNat ≤ s.build.font.last.toNat)
    exec (.stringWidth chars) s = .next { s with result := BitVec.ofNat 32 (inRange * s.build.font.width), seq := .idle } ∧
    (chars.length ≤ 255 → ∀ v, decode v ([0x42, BitVec.ofNat 8 chars.length] ++ chars) false = .ok (.stringWidth chars)) ∧
    (chars.length ≤ 255 → s.build.font.Conforming → inRange * s.build.font.width ≤ 65025)

/-! ### The protocol (41_protocol.md) -/

/-- R44, R77, R170, R171: an operation whose next event is `e` issues it: a reset-line event drives RST_N, a frame drives CS_N low
and DC low for a command and high for data; nothing else changes but, for INIT, that PWR is INITIALIZING. That an event takes two
steps, its issue and its completion, is the model's (log 6, log 28). -/
def Obligations.NextEventIsIssued : Prop :=
  ∀ (i : Instr) (s : State) (p : Packet) (k : Nat) (e : TxEvent),
    s.seq = .exec p k none → (eventList i s)[k]? = some e →
    exec i s = .next { s with
      seq := .exec p k (some e)
      pwr := if i = .init then .initializing else s.pwr
      rstN := match e with
        | .rst v => v
        | _ => s.rstN
      csN := if e.isFrame then false else s.csN
      dc := match e with
        | .cmd _ => false
        | .data _ => true
        | .burst _ => true
        | _ => s.dc }

/-- R44, R170, R171, R174: the event in flight completes with ok, always for RST and Delay and when the transport says so for the
others: a frame releases CS_N, and one more event is done. The trace and the completion taken are the model's record (log 5, log 7). -/
def Obligations.EventCompletesOk : Prop :=
  ∀ (i : Instr) (s : State) (p : Packet) (k : Nat) (e : TxEvent),
    s.seq = .exec p k (some e) → (eventList i s)[k]? = some e → (e.canFail = true → s.nextAnswer = true) →
    exec i s = .next { s with
      seq := .exec p (k + 1) none
      pwr := if i = .init then .initializing else s.pwr
      csN := s.csN || e.isFrame
      trace := s.trace ++ [(e, .ok)]
      answers := if e.canFail then s.answers.tail else s.answers
      freeCount := if e.canFail = true ∧ s.answers = [] then s.freeCount + 1 else s.freeCount }

/-- R75, R177, R182 to R188: after its last event each protocol operation commits with exactly the change of PWR its rule gives.
That the commit is a step of its own is the model's (log 16). -/
def Obligations.ProtocolOperationsCommit : Prop :=
  ∀ (s : State) (p : Packet) (eb : Byte),
    (s.seq = .exec p (initEvents s.build).length none →
      exec .init s = .next { s with pwr := .highPower, seq := .idle }) ∧
    (s.pwr ∈ [.highPower, .lowPower] → s.seq = .exec p (displayEvents s.build s.fb).length none →
      exec .display s = .next { s with seq := .idle }) ∧
    (s.pwr = .lowPower → s.seq = .exec p 1 none → exec .hpm s = .next { s with pwr := .highPower, seq := .idle }) ∧
    (s.pwr = .highPower → s.seq = .exec p 1 none → exec .lpm s = .next { s with pwr := .lowPower, seq := .idle }) ∧
    (s.pwr = .highPower → eb ≠ 0 → s.seq = .exec p 2 none →
      exec (.sleep eb) s = .next { s with pwr := .sleeping, seq := .idle }) ∧
    (s.pwr = .lowPower → eb ≠ 0 → s.seq = .exec p 4 none →
      exec (.sleep eb) s = .next { s with pwr := .sleeping, seq := .idle }) ∧
    (s.pwr = .sleeping → s.seq = .exec p 2 none →
      exec (.sleep 0) s = .next { s with pwr := .highPower, seq := .idle }) ∧
    (s.seq = .exec p 1 none → exec (.invert eb) s = .next { s with seq := .idle }) ∧
    (s.seq = .exec p 1 none → exec (.dispon eb) s = .next { s with seq := .idle })

/-- R173, R176, R177, R179: with every completion ok, INIT emits the bus set-up, the panel's reset pulse with its two delays and the
table's entries in order, shows INITIALIZING throughout, and ends in HIGH_POWER with nothing else of the block changed. The number
of steps, the schedule of completions and the record in the trace are the model's (log 5, log 6, log 7, log 16). -/
def Obligations.InitRuns : Prop :=
  ∀ (s : State) (p : Packet) (rest : List Bool),
    let entry : InitEntry → List TxEvent := fun e =>
      [TxEvent.cmd e.cmd] ++ e.payload.map TxEvent.data ++ (if e.delay = 0 then [] else [TxEvent.delay e.delay])
    let evs : List TxEvent :=
      [TxEvent.txSetup, TxEvent.rst false, TxEvent.delay 10, TxEvent.rst true, TxEvent.delay 10] ++ (s.build.initTable.map entry).flatten
    s.seq = .exec p 0 none → s.csN = true → AnswersOk s (fallible evs) rest →
    execTimes .init (2 * evs.length + 1) s = .next { s.afterEvents evs rest with pwr := .highPower, seq := .idle } ∧
    ∀ n, 0 < n → n ≤ 2 * evs.length → ∃ t, execTimes .init n s = .next t ∧ t.pwr = .initializing ∧ t.busy = true

/-- R182, R69: with every completion ok, DISPLAY sends the column window, the row window and the memory write, a frame for each
byte, then every framebuffer byte in ascending index in one frame, and changes nothing of the block but the pins. The number of
steps, the schedule of completions and the record in the trace are the model's (log 5, log 6, log 7, log 16). -/
def Obligations.DisplayRuns : Prop :=
  ∀ (s : State) (p : Packet) (rest : List Bool),
    let evs : List TxEvent :=
      [TxEvent.cmd s.build.cmds.caset] ++ s.build.colWindow.map TxEvent.data ++ [TxEvent.cmd s.build.cmds.raset] ++
      s.build.rowWindow.map TxEvent.data ++ [TxEvent.cmd s.build.cmds.ramwr] ++
      [TxEvent.burst ((List.range s.build.fbLen).map fun a => s.fb.read a)]
    s.pwr ∈ [.highPower, .lowPower] → s.seq = .exec p 0 none → s.csN = true → AnswersOk s (fallible evs) rest →
    execTimes .display (2 * evs.length + 1) s = .next { s.afterEvents evs rest with seq := .idle }

/-- R183 to R186: with every completion ok, each power transition emits its rule's commands and delays and ends in its state. The
number of steps, the schedule of completions and the record in the trace are the model's (log 5, log 6, log 7, log 16). -/
def Obligations.PowerTransitionsRun : Prop :=
  ∀ (s : State) (p : Packet) (eb : Byte) (rest : List Bool),
    let c := s.build.cmds
    let ends : Instr → List TxEvent → Power → Prop := fun i evs target =>
      AnswersOk s (fallible evs) rest →
      execTimes i (2 * evs.length + 1) s = .next { s.afterEvents evs rest with pwr := target, seq := .idle }
    s.seq = .exec p 0 none → s.csN = true →
    (s.pwr = .lowPower → ends .hpm [.cmd c.hpm] .highPower) ∧
    (s.pwr = .highPower → ends .lpm [.cmd c.lpm] .lowPower) ∧
    (s.pwr = .highPower → eb ≠ 0 → ends (.sleep eb) [.cmd c.slpin, .delay s.build.tSlpin] .sleeping) ∧
    (s.pwr = .lowPower → eb ≠ 0 →
      ends (.sleep eb) [.cmd c.hpm, .delay s.build.tLpmExit, .cmd c.slpin, .delay s.build.tSlpin] .sleeping) ∧
    (s.pwr = .sleeping → ends (.sleep 0) [.cmd c.slpout, .delay s.build.tWake] .highPower)

/-- R187, R188: INVERT and DISPON emit their one command in every power state and change nothing of the block but the pins. The
number of steps, the schedule of completions and the record in the trace are the model's (log 5, log 6, log 7, log 16). -/
def Obligations.TogglesRun : Prop :=
  ∀ (s : State) (p : Packet) (eb : Byte) (rest : List Bool),
    s.seq = .exec p 0 none → s.csN = true → AnswersOk s 1 rest →
    execTimes (.invert eb) 3 s = .next { s with
      dc := false, answers := rest, seq := .idle
      trace := s.trace ++ [(.cmd (if eb = 0 then s.build.cmds.invoff else s.build.cmds.invon), .ok)] } ∧
    execTimes (.dispon eb) 3 s = .next { s with
      dc := false, answers := rest, seq := .idle
      trace := s.trace ++ [(.cmd (if eb = 0 then s.build.cmds.dispoff else s.build.cmds.dispon), .ok)] }

/-- R192: a FILL 0x00 followed by a DISPLAY, with every completion ok, ends its trace with one frame of FB_LEN zero bytes. The
number of steps, the schedule of completions and the record in the trace are the model's (log 5, log 6, log 7, log 16). -/
def Obligations.ClearThenDisplaySendsZeros : Prop :=
  ∀ (s : State) (p p' : Packet) (rest : List Bool),
    let evs : List TxEvent :=
      [TxEvent.cmd s.build.cmds.caset] ++ s.build.colWindow.map TxEvent.data ++ [TxEvent.cmd s.build.cmds.raset] ++
      s.build.rowWindow.map TxEvent.data ++ [TxEvent.cmd s.build.cmds.ramwr] ++ [TxEvent.burst (List.replicate s.build.fbLen 0)]
    s.pwr ∈ [.highPower, .lowPower] → s.seq = .exec p 0 none → s.csN = true → AnswersOk s (fallible evs) rest →
    ∃ s1 t, exec (.fill 0x00) s = .next s1 ∧
      execTimes .display (2 * evs.length + 1) { s1 with seq := .exec p' 0 none } = .next t ∧
      t.trace = s.trace ++ evs.map fun e => (e, .ok)

/-! ### Reset (10_state.md, 70_reset_and_hazards.md) -/

/-- R49, R342: after reset every piece of the block's state has the value the spec gives it, and STATUS reads 0, with only VARIANT
set in GRAY2. The schedule and the observations, empty there, are the model's, and so is DC (log 9), of which nothing is said. -/
def Obligations.ResetValues : Prop :=
  State.reset = State.resetOf Config.build ∧
  ∀ b : Build,
    let s := State.resetOf b
    (∀ a, s.fb.read a = 0) ∧ s.rot = 0 ∧ s.pwr = .uninitialized ∧ s.err = false ∧ s.errCode = .noError ∧ s.result = 0 ∧
    s.plen = 0 ∧ s.povf = false ∧ s.seq = .idle ∧ s.busy = false ∧ s.rstN = true ∧ s.csN = true ∧ s.build = b ∧
    statusWord s = (match b.variant with
      | .mono1 => 0x00000000
      | .gray2 => 0x00001000)

/-- R340: a block reset gives every piece of the block's state its reset value at once, whatever the block was doing, and emits no
event. That the build, the inputs and completions still to come (`build`, `inputs`, `answers`, `freeCount`) and the reads observed are
kept is the model's reading (log 26, DEDUCED), and that an event in flight is recorded as cut off is the model's record (log 7). Nothing
is said of DC, unspecified after reset (log 9). -/
def Obligations.BlockResetFromAnyState : Prop :=
  ∀ (s : State) (rest : List Input), s.inputs = .blockReset :: rest →
    ∃ t, step s = .next t ∧
      t = { State.resetOf s.build with
        dc := t.dc, inputs := rest, answers := s.answers, freeCount := s.freeCount, reads := s.reads, trace := t.trace } ∧
      ((∀ p k e, s.seq ≠ .exec p k (some e)) → t.trace = s.trace) ∧
      (∀ p k e, s.seq = .exec p k (some e) → t.trace = s.trace ++ [(e, .cut)])

/-! ### The whole machine -/

/-- The invariant holds after reset, in any build. -/
def Obligations.InvariantHoldsAtReset : Prop := BlockInv State.reset ∧ ∀ b, BlockInv (State.resetOf b)

/-- R33, R39, R43, R44, R45, R61: every step of the machine keeps the invariant, whatever input comes. That PWR is INITIALIZING from
the DOORBELL on is the model's reading (log 15). -/
def Obligations.StepKeepsInvariant : Prop :=
  ∀ s t : State, BlockInv s → step s = .next t → BlockInv t

/-- R34, R191: every change of PWR is one the transition table lists. That an INIT shows INITIALIZING from its DOORBELL is the
model's reading (log 15). -/
def Obligations.PowerChangesAreEdges : Prop :=
  ∀ s t : State, BlockInv s → step s = .next t →
    t.pwr = s.pwr ∨ PowerEdge s.pwr t.pwr ∨ (ResetNext s ∧ t.pwr = .uninitialized)

/-- R32, R35, R41, R46: FB is written only by a pixel, rasterizer, font or FILL operation, ROT only by SET_ROT, RESULT only by
READ_PIXEL and STRING_WIDTH, and each of them by block reset; no step changes the build's parameters. -/
def Obligations.RegistersHaveTheirWriters : Prop :=
  (∀ s t : State, step s = .next t → t.build = s.build) ∧
  ∀ s t : State, step s = .next t → ¬ ResetNext s →
    (t.fb ≠ s.fb → SequencersTurn s ∧ ∃ i, Executing s i ∧ writesFb i = true) ∧
    (t.rot ≠ s.rot → SequencersTurn s ∧ ∃ a, Executing s (.setRot a)) ∧
    (t.result ≠ s.result → SequencersTurn s ∧
      ((∃ x y, Executing s (.readPixel x y)) ∨ ∃ chars, Executing s (.stringWidth chars)))

/-- R39: recording an error sets ERR and the code when none was recorded and changes nothing when one was; a recorded error stays,
with its code, until CLEAR_ERR or block reset clears both. -/
def Obligations.FirstErrorStaysUntilCleared : Prop :=
  (∀ (s : State) (c : ErrCode),
    (s.err = false → s.recordErr c = { s with err := true, errCode := c }) ∧ (s.err = true → s.recordErr c = s)) ∧
  ∀ s t : State, step s = .next t → s.err = true →
    (t.err = true ∧ t.errCode = s.errCode) ∨
    ((ResetNext s ∨ (SequencersTurn s ∧ Executing s .clearErr)) ∧ t.err = false ∧ t.errCode = .noError)

/-- R62, R65, R300: with a conforming font no step faults, and a step is refused only for a host access outside the port's contract:
no packet, whatever its bytes, stops the machine. -/
def Obligations.OnlyIllegalAccessStops : Prop :=
  ∀ s : State, s.build.font.Conforming →
    (∀ f, step s ≠ .fault f) ∧
    (∀ r, step s = .refused r → ∃ a rest, s.inputs = .host a :: rest ∧ IllegalAccess a)

/-- R37, R75, R353: an executing operation, whatever its packet and whatever the transport answers, ends: left to itself the block
is idle again after at most two sequencer steps for each event of the operation and one for its commit. The bound counts the model's
steps (log 6, log 16). -/
def Obligations.EveryOperationEnds : Prop :=
  ∀ (s : State) (p : Packet) (k : Nat) (f : Option TxEvent),
    BlockInv s → s.build.font.Conforming → s.inputs = [] → s.seq = .exec p k f →
    ∃ n t, Host.Core.run core n s = .next t ∧ t.seq = .idle ∧ 1 ≤ n ∧
      ∀ i, decode s.build.variant p.bytes p.povf = .ok i → n ≤ 2 * (eventList i s).length + 1
end

