-- ==== Sys2Proof/Laws/Memory.lean ====
section
/-!
SUPPORT. Laws/Memory.lean: what the framebuffer's operations do, said once: what reads back, what stays, and that each keeps the
canonical form and the bound on the indices (20_memory.md rules R62, R68, R69).
-/

namespace Sys2Proof.Machine

/-! ### Reading -/

theorem Memory.risesFrom_mono {lo lo' : Nat} (h : lo ≤ lo') :
    ∀ {m : Memory}, m.risesFrom lo' = true → m.risesFrom lo = true
  | [], _ => rfl
  | (a, b) :: m, hm => by
    simp only [Memory.risesFrom, Bool.and_eq_true, decide_eq_true_eq] at hm ⊢
    exact ⟨⟨by omega, hm.1.2⟩, hm.2⟩

/-- An index below the first listed one reads 0x00. -/
theorem Memory.read_of_risesFrom {lo i : Nat} (h : i < lo) :
    ∀ {m : Memory}, m.risesFrom lo = true → m.read i = 0
  | [], _ => rfl
  | (a, b) :: m, hm => by
    simp only [Memory.risesFrom, Bool.and_eq_true, decide_eq_true_eq] at hm
    have ha : a ≠ i := by omega
    simp only [Memory.read, ha, if_false]
    exact Memory.read_of_risesFrom (lo := a + 1) (by omega) hm.2

/-- An index at or beyond the space reads 0x00. -/
theorem Memory.read_of_below {n i : Nat} (h : n ≤ i) :
    ∀ {m : Memory}, m.below n = true → m.read i = 0
  | [], _ => rfl
  | (a, b) :: m, hm => by
    simp only [Memory.below, List.all_cons, Bool.and_eq_true, decide_eq_true_eq] at hm
    have ha : a ≠ i := by omega
    simp only [Memory.read, ha, if_false]
    exact Memory.read_of_below h (by simpa [Memory.below] using hm.2)

/-! ### Writing one byte -/

/-- A write leaves every other byte alone, in any memory. -/
theorem Memory.read_write_ne {i j : Nat} (h : j ≠ i) (v : Byte) :
    ∀ m : Memory, (m.write i v).read j = m.read j
  | [] => by
    unfold Memory.write
    split <;> simp [Memory.read, h.symm]
  | (a, b) :: m => by
    unfold Memory.write
    split
    · split <;> simp [Memory.read, h.symm]
    · split
      · subst_vars
        split <;> simp [Memory.read, h.symm]
      · simp only [Memory.read]
        rw [Memory.read_write_ne h v m]

theorem Memory.read_write_same_from {i : Nat} (v : Byte) :
    ∀ {lo : Nat} {m : Memory}, m.risesFrom lo = true → (m.write i v).read i = v
  | _, [], _ => by
    unfold Memory.write
    split <;> simp_all [Memory.read]
  | lo, (a, b) :: m, hm => by
    have hm' := hm
    simp only [Memory.risesFrom, Bool.and_eq_true, decide_eq_true_eq] at hm'
    unfold Memory.write
    split
    · rename_i hia
      split
      · rename_i hv
        have : a ≠ i := by omega
        simp only [Memory.read, this, if_false, hv]
        exact Memory.read_of_risesFrom (lo := a + 1) (by omega) hm'.2
      · simp [Memory.read]
    · split
      · rename_i hia
        split
        · rename_i hv
          rw [hv]
          exact Memory.read_of_risesFrom (lo := a + 1) (by omega) hm'.2
        · simp [Memory.read]
      · rename_i h1 h2
        have : a ≠ i := fun e => h2 e.symm
        simp only [Memory.read, this, if_false]
        exact Memory.read_write_same_from v hm'.2

/-- A read after a write to the same index gives the byte written, in canonical memory. -/
theorem Memory.read_write_same {m : Memory} (h : m.wf = true) (i : Nat) (v : Byte) :
    (m.write i v).read i = v :=
  Memory.read_write_same_from v h

theorem Memory.read_write {m : Memory} (h : m.wf = true) (i j : Nat) (v : Byte) :
    (m.write i v).read j = if j = i then v else m.read j := by
  split
  · subst_vars; exact Memory.read_write_same h _ v
  · exact Memory.read_write_ne ‹_› v m

theorem Memory.risesFrom_write {i : Nat} (v : Byte) :
    ∀ {lo : Nat} {m : Memory}, lo ≤ i → m.risesFrom lo = true → (m.write i v).risesFrom lo = true
  | lo, [], hlo, _ => by
    unfold Memory.write
    split <;> simp_all [Memory.risesFrom]
  | lo, (a, b) :: m, hlo, hm => by
    have hm' := hm
    simp only [Memory.risesFrom, Bool.and_eq_true, decide_eq_true_eq] at hm'
    unfold Memory.write
    split
    · split
      · exact hm
      · rename_i hia hv
        simp only [Memory.risesFrom, Bool.and_eq_true, decide_eq_true_eq]
        exact ⟨⟨hlo, hv⟩, ⟨by omega, hm'.1.2⟩, hm'.2⟩
    · split
      · split
        · exact Memory.risesFrom_mono (by omega) hm'.2
        · rename_i h1 h2 hv
          simp only [Memory.risesFrom, Bool.and_eq_true, decide_eq_true_eq]
          exact ⟨⟨hlo, hv⟩, by rw [h2]; exact hm'.2⟩
      · rename_i h1 h2
        simp only [Memory.risesFrom, Bool.and_eq_true, decide_eq_true_eq]
        exact ⟨hm'.1, Memory.risesFrom_write v (by omega) hm'.2⟩

/-- A write keeps the canonical form. -/
theorem Memory.wf_write {m : Memory} (h : m.wf = true) (i : Nat) (v : Byte) : (m.write i v).wf = true :=
  Memory.risesFrom_write v (Nat.zero_le i) h

/-- The framebuffer after reset has the canonical form. -/
theorem Memory.wf_resetOf (b : Build) : (State.resetOf b).fb.wf = true := rfl

/-- A write inside the space keeps every index inside it. -/
theorem Memory.below_write {n i : Nat} (hi : i < n) (v : Byte) :
    ∀ {m : Memory}, m.below n = true → (m.write i v).below n = true
  | [], _ => by
    unfold Memory.write
    split <;> simp [Memory.below, hi]
  | (a, b) :: m, hm => by
    have hm' : a < n ∧ Memory.below n m = true := by simpa [Memory.below] using hm
    unfold Memory.write
    split
    · split
      · exact hm
      · simpa [Memory.below, hi] using hm'
    · split
      · split
        · exact hm'.2
        · simpa [Memory.below, hi] using hm'.2
      · have := Memory.below_write hi v hm'.2
        simpa [Memory.below, hm'.1] using this

/-! ### Filling -/

theorem Memory.read_map_range (v : Byte) (i : Nat) :
    ∀ l : List Nat, Memory.read (l.map fun k => (k, v)) i = if i ∈ l then v else 0
  | [] => by simp [Memory.read]
  | k :: l => by
    simp only [List.map_cons, Memory.read]
    rw [Memory.read_map_range v i l]
    by_cases h : k = i <;> by_cases h' : i ∈ l <;> simp_all [eq_comm]

/-- After a fill every byte of the space reads the fill byte. -/
theorem Memory.read_filled (n : Nat) (v : Byte) (i : Nat) :
    (Memory.filled n v).read i = if i < n then v else 0 := by
  unfold Memory.filled
  split
  · simp_all [Memory.read]
  · rw [Memory.read_map_range]; simp

theorem Memory.risesFrom_range' {v : Byte} (hv : v ≠ 0) (n : Nat) :
    ∀ lo : Nat, Memory.risesFrom lo ((List.range' lo n).map fun k => (k, v)) = true := by
  induction n with
  | zero => intro lo; rfl
  | succ n ih =>
    intro lo
    simp only [List.range'_succ, List.map_cons, Memory.risesFrom, Bool.and_eq_true, decide_eq_true_eq]
    exact ⟨⟨le_refl _, hv⟩, ih (lo + 1)⟩

theorem Memory.wf_filled (n : Nat) (v : Byte) : (Memory.filled n v).wf = true := by
  unfold Memory.filled Memory.wf
  split
  · rfl
  · rename_i hv
    rw [List.range_eq_range']
    exact Memory.risesFrom_range' hv n 0

theorem Memory.below_filled (n : Nat) (v : Byte) : (Memory.filled n v).below n = true := by
  unfold Memory.filled Memory.below
  split <;> simp [List.all_map]

theorem Memory.length_bytes (m : Memory) (n : Nat) : (m.bytes n).length = n := by
  simp [Memory.bytes]

/-! ### Setting a bit -/

/-- Setting bit `k` of a byte sets that bit and leaves the others. -/
theorem getLsbD_setBit (v : Byte) (c : Bool) :
    ∀ k < 8, ∀ j < 8, (setBit v k c).getLsbD j = if j = k then c else v.getLsbD j := by
  intro k hk j hj
  by_cases hjk : j = k
  · subst hjk
    cases c <;> simp [setBit, hj]
  · have h1 : (1#8 <<< k).getLsbD j = false := by
      rw [BitVec.getLsbD_shiftLeft]
      by_cases h' : j < k
      · simp [h']
      · have : j - k ≠ 0 := by omega
        simp [BitVec.getLsbD_one, this]
    cases c
    · simp only [setBit, Bool.false_eq_true, if_false, BitVec.getLsbD_and, BitVec.getLsbD_not, h1, hjk]
      simp [hj]
    · simp only [setBit, if_true, BitVec.getLsbD_or, h1, hjk, if_false, Bool.or_false]

end Sys2Proof.Machine
end

