-- ==== Sys2Proof/Laws/Pixel.lean ====
section
/-!
SUPPORT. Laws/Pixel.lean: the address decoder stays in its space and shares no bit between pixels (40_framebuffer.md rule R136),
so a pixel write never faults, sets its pixel and leaves every other alone (rule R137), and so do any number of plots.
-/

namespace Sys2Proof.Machine

/-! ### The decoder -/

theorem inBounds_iff {b : Build} {q : Point} :
    inBounds b q = true ↔ 0 ≤ q.1 ∧ q.1 < b.panelW ∧ 0 ≤ q.2 ∧ q.2 < b.panelH := by
  simp [inBounds]

theorem eq_of_mul_add_eq {w a c a' c' : Nat} (hc : c < w) (hc' : c' < w) (h : a * w + c = a' * w + c') :
    a = a' ∧ c = c' := by
  have hw : 0 < w := by omega
  have h1 := congrArg (· / w) h
  have h2 := congrArg (· % w) h
  simp only [Nat.mul_add_mod', Nat.mod_eq_of_lt hc, Nat.mod_eq_of_lt hc'] at h2
  rw [show a * w + c = c + a * w by omega, show a' * w + c' = c' + a' * w by omega] at h1
  simp only [Nat.add_mul_div_right _ _ hw, Nat.div_eq_of_lt hc, Nat.div_eq_of_lt hc', Nat.zero_add] at h1
  exact ⟨h1, h2⟩

/-- Every in-bounds pixel's byte is inside the framebuffer (R131, R136). -/
theorem pixelIndex_lt {b : Build} {q : Point} (h : inBounds b q = true) :
    pixelIndex b q.1.toNat q.2.toNat < b.fbLen := by
  obtain ⟨h1, h2, h3, h4⟩ := inBounds_iff.1 h
  have h2 : q.1.toNat < b.panelW := by omega
  have h4 : q.2.toNat < b.panelH := by omega
  generalize q.1.toNat = x at h2 ⊢
  generalize q.2.toNat = y at h4 ⊢
  unfold pixelIndex Build.fbLen
  cases hv : b.variant
  · simp only [Build.panelW, Build.panelH, hv] at h2 h4
    simp only [monoIndex, Build.dataW, Build.dataH, Build.panelW, Build.panelH, Build.k1, Build.k2, hv]
    omega
  · simp only [Build.panelW, Build.panelH, hv] at h2 h4
    simp only [grayIndex, Build.dataW, Build.dataH, Build.panelW, Build.panelH, Build.k1, Build.k2, hv]
    rw [Nat.mul_div_cancel_left _ (by omega), Nat.mul_div_cancel_left _ (by omega)]
    calc y / 2 * b.grayDataW + x / 2 < y / 2 * b.grayDataW + b.grayDataW := by omega
      _ = (y / 2 + 1) * b.grayDataW := by rw [Nat.add_mul, Nat.one_mul]
      _ ≤ b.grayDataH * b.grayDataW := Nat.mul_le_mul_right _ (by omega)
      _ = b.grayDataW * b.grayDataH := Nat.mul_comm _ _

/-- Two in-bounds pixels of one byte lie in the same packed block (R131, R133). -/
theorem block_of_pixelIndex_eq {b : Build} {q q' : Point} (h : inBounds b q = true) (h' : inBounds b q' = true)
    (e : pixelIndex b q.1.toNat q.2.toNat = pixelIndex b q'.1.toNat q'.2.toNat) :
    q.2.toNat / 2 = q'.2.toNat / 2 ∧ q.1.toNat / b.k1 = q'.1.toNat / b.k1 := by
  obtain ⟨h1, h2, h3, h4⟩ := inBounds_iff.1 h
  obtain ⟨h1', h2', h3', h4'⟩ := inBounds_iff.1 h'
  unfold pixelIndex at e
  cases hv : b.variant
  · simp only [hv, monoIndex] at e
    simp only [Build.k1, hv]
    refine eq_of_mul_add_eq ?_ ?_ e <;>
      simp only [Build.dataW, Build.panelW, Build.k1, hv] at * <;> omega
  · simp only [hv, grayIndex] at e
    simp only [Build.k1, hv]
    refine eq_of_mul_add_eq ?_ ?_ e <;>
      simp only [Build.dataW, Build.panelW, Build.k1, hv] at * <;> omega

/-! ### One pixel write -/

/-- The framebuffer after the byte of `q` is updated by `f`, where `q` is in bounds. -/
def touched (b : Build) (m : Memory) (q : Point) (f : Nat → Nat → Byte → Byte) : Memory :=
  if inBounds b q then
    m.write (pixelIndex b q.1.toNat q.2.toNat)
      (f q.1.toNat q.2.toNat (m.read (pixelIndex b q.1.toNat q.2.toNat)))
  else m

/-- A physical write never faults: the decoder forms no index outside the space (R62). -/
theorem writePhysWith_eq (b : Build) (m : Memory) (q : Point) (f : Nat → Nat → Byte → Byte) :
    writePhysWith b m q f = .ok (touched b m q f) := by
  unfold writePhysWith touched
  split
  · rename_i h
    have := pixelIndex_lt h
    simp [fbUpdate, fbRead, fbWrite, this]
  · rfl

theorem wf_touched {b : Build} {m : Memory} (h : m.wf = true) (q : Point) (f : Nat → Nat → Byte → Byte) :
    (touched b m q f).wf = true := by
  unfold touched
  split
  · exact Memory.wf_write h _ _
  · exact h

theorem below_touched {b : Build} {m : Memory} (h : m.below b.fbLen = true) (q : Point)
    (f : Nat → Nat → Byte → Byte) : (touched b m q f).below b.fbLen = true := by
  unfold touched
  split
  · exact Memory.below_write (pixelIndex_lt ‹_›) _ h
  · exact h

/-- Every byte but the one that holds `q` is unchanged (R68, R137). -/
theorem read_touched_ne {b : Build} (m : Memory) {q : Point} (f : Nat → Nat → Byte → Byte) {i : Nat}
    (h : inBounds b q = true → i ≠ pixelIndex b q.1.toNat q.2.toNat) :
    (touched b m q f).read i = m.read i := by
  unfold touched
  split
  · exact Memory.read_write_ne (h ‹_›) _ m
  · rfl

/-- The pixel written reads the colour (R137, R142). -/
theorem pixelValue_putColour (vt : Variant) (px py : Nat) (c : Bool) (v : Byte) :
    pixelValue vt px py (putColour vt px py c v) = colourValue vt c := by
  cases vt
  · simp only [pixelValue, putColour, colourValue, monoBit]
    rw [getLsbD_setBit _ _ _ (by omega) _ (by omega)]; simp
  · have hA : bitA px py < 8 := by unfold bitA; omega
    have hB : bitB px py < 8 := by unfold bitB; omega
    have hne : bitA px py ≠ bitB px py := by unfold bitA bitB; omega
    simp only [pixelValue, putColour, colourValue]
    rw [getLsbD_setBit _ _ _ hB _ hA, getLsbD_setBit _ _ _ hB _ hB, getLsbD_setBit _ _ _ hA _ hA]
    cases c <;> simp [hne]

/-- The gray level written reads back (R134, R137, R142). -/
theorem pixelValue_putLevel (px py : Nat) (g v : Byte) :
    pixelValue .gray2 px py (putLevel px py g v) = 2 * (g.getLsbD 1).toNat + (g.getLsbD 0).toNat := by
  have hA : bitA px py < 8 := by unfold bitA; omega
  have hB : bitB px py < 8 := by unfold bitB; omega
  have hne : bitA px py ≠ bitB px py := by unfold bitA bitB; omega
  simp only [pixelValue, putLevel]
  rw [getLsbD_setBit _ _ _ hB _ hA, getLsbD_setBit _ _ _ hB _ hB, getLsbD_setBit _ _ _ hA _ hA]
  simp [hne]

/-- Two pixels of one MONO1 byte have different bits (R132, R136). -/
theorem monoBit_inj {x y x' y' : Nat} (hy : y / 2 = y' / 2) (hx : x / 4 = x' / 4) (e : monoBit x y = monoBit x' y') :
    x = x' ∧ y = y' := by
  unfold monoBit at e; omega

/-- Two pixels of one GRAY2 byte share no bit (R133, R136). -/
theorem grayBits_disjoint {x y x' y' : Nat} (hy : y / 2 = y' / 2) (hx : x / 2 = x' / 2) (ne : ¬ (x = x' ∧ y = y')) :
    bitA x y ≠ bitA x' y' ∧ bitA x y ≠ bitB x' y' ∧ bitB x y ≠ bitA x' y' ∧ bitB x y ≠ bitB x' y' := by
  unfold bitA bitB; omega

/-- Another pixel of the same byte keeps its value under a colour write (R137). -/
theorem pixelValue_putColour_ne (vt : Variant) {x y x' y' : Nat} (hy : y / 2 = y' / 2)
    (hx : x / (match vt with | .mono1 => 4 | .gray2 => 2) = x' / (match vt with | .mono1 => 4 | .gray2 => 2))
    (ne : ¬ (x = x' ∧ y = y')) (c : Bool) (v : Byte) :
    pixelValue vt x' y' (putColour vt x y c v) = pixelValue vt x' y' v := by
  cases vt
  · simp only [pixelValue, putColour]
    have : monoBit x' y' ≠ monoBit x y := fun e => ne (by have := monoBit_inj hy.symm hx.symm e; omega)
    rw [getLsbD_setBit _ _ _ (by unfold monoBit; omega) _ (by unfold monoBit; omega), if_neg this]
  · obtain ⟨h1, h2, h3, h4⟩ := grayBits_disjoint hy hx ne
    simp only [pixelValue, putColour]
    have lA : ∀ a b : Nat, bitA a b < 8 := fun a b => by unfold bitA; omega
    have lB : ∀ a b : Nat, bitB a b < 8 := fun a b => by unfold bitB; omega
    rw [getLsbD_setBit _ _ _ (lB _ _) _ (lA _ _), getLsbD_setBit _ _ _ (lB _ _) _ (lB _ _),
      getLsbD_setBit _ _ _ (lA _ _) _ (lA _ _), getLsbD_setBit _ _ _ (lA _ _) _ (lB _ _),
      if_neg h3.symm, if_neg h1.symm, if_neg h4.symm, if_neg h2.symm]

/-- Another pixel of the same byte keeps its value under a level write (R137). -/
theorem pixelValue_putLevel_ne {x y x' y' : Nat} (hy : y / 2 = y' / 2) (hx : x / 2 = x' / 2)
    (ne : ¬ (x = x' ∧ y = y')) (g v : Byte) :
    pixelValue .gray2 x' y' (putLevel x y g v) = pixelValue .gray2 x' y' v := by
  obtain ⟨h1, h2, h3, h4⟩ := grayBits_disjoint hy hx ne
  simp only [pixelValue, putLevel]
  have lA : ∀ a b : Nat, bitA a b < 8 := fun a b => by unfold bitA; omega
  have lB : ∀ a b : Nat, bitB a b < 8 := fun a b => by unfold bitB; omega
  rw [getLsbD_setBit _ _ _ (lB _ _) _ (lA _ _), getLsbD_setBit _ _ _ (lB _ _) _ (lB _ _),
    getLsbD_setBit _ _ _ (lA _ _) _ (lA _ _), getLsbD_setBit _ _ _ (lA _ _) _ (lB _ _),
    if_neg h3.symm, if_neg h1.symm, if_neg h4.symm, if_neg h2.symm]

theorem toNat_eq_of_inBounds {b : Build} {q q' : Point} (h : inBounds b q = true) (h' : inBounds b q' = true)
    (e : q.1.toNat = q'.1.toNat ∧ q.2.toNat = q'.2.toNat) : q = q' := by
  obtain ⟨h1, -, h3, -⟩ := inBounds_iff.1 h
  obtain ⟨h1', -, h3', -⟩ := inBounds_iff.1 h'
  ext <;> omega

/-- What a colour write does to every in-bounds pixel (R137). -/
theorem pixelAt_touched_colour {b : Build} {m : Memory} (hm : m.wf = true) (c : Bool) {q q' : Point}
    (hq' : inBounds b q' = true) :
    pixelAt b (touched b m q fun x y => putColour b.variant x y c) q' =
      if q' = q then colourValue b.variant c else pixelAt b m q' := by
  unfold touched
  split
  · rename_i hq
    unfold pixelAt
    rw [Memory.read_write hm]
    by_cases he : q' = q
    · subst he; simp [pixelValue_putColour]
    · rw [if_neg he]
      split
      · rename_i hi
        obtain ⟨e1, e2⟩ := block_of_pixelIndex_eq hq' hq hi
        rw [hi]
        refine pixelValue_putColour_ne _ e1.symm ?_ (fun e => he ?_) c _
        · cases hv : b.variant <;> simp only [Build.k1, hv] at e2 ⊢ <;> exact e2.symm
        · exact (toNat_eq_of_inBounds hq hq' e).symm
      · rfl
  · rename_i hq
    rw [if_neg]
    rintro rfl
    exact hq hq'

/-- What a level write does to every in-bounds pixel of a GRAY2 block (R137). -/
theorem pixelAt_touched_level {b : Build} {m : Memory} (hm : m.wf = true) (hv : b.variant = .gray2) (g : Byte)
    {q q' : Point} (hq' : inBounds b q' = true) :
    pixelAt b (touched b m q fun x y => putLevel x y g) q' =
      if q' = q then 2 * (g.getLsbD 1).toNat + (g.getLsbD 0).toNat else pixelAt b m q' := by
  unfold touched
  split
  · rename_i hq
    unfold pixelAt
    rw [Memory.read_write hm]
    by_cases he : q' = q
    · subst he; simp [hv, pixelValue_putLevel]
    · rw [if_neg he]
      split
      · rename_i hi
        obtain ⟨e1, e2⟩ := block_of_pixelIndex_eq hq' hq hi
        rw [hi, hv]
        simp only [Build.k1, hv] at e2
        exact pixelValue_putLevel_ne e1.symm e2.symm (fun e => he (toNat_eq_of_inBounds hq hq' e).symm) g _
      · rfl
  · rename_i hq
    rw [if_neg]
    rintro rfl
    exact hq hq'

/-! ### Many plots -/

/-- The framebuffer after plots in order. -/
def plotted (b : Build) (r : BitVec 2) : Memory → List (Point × Bool) → Memory
  | m, [] => m
  | m, (p, c) :: rest => plotted b r (touched b m (rotate b r p) fun x y => putColour b.variant x y c) rest

/-- Plots never fault (R62, R141). -/
theorem plotAll_eq (b : Build) (r : BitVec 2) :
    ∀ (ps : List (Point × Bool)) (m : Memory), plotAll b r m ps = .ok (plotted b r m ps)
  | [], _ => rfl
  | (p, c) :: rest, m => by
    simp only [plotAll, plot, writePhys, writePhysWith_eq, plotted]
    exact plotAll_eq b r rest _

theorem wf_plotted (b : Build) (r : BitVec 2) :
    ∀ (ps : List (Point × Bool)) {m : Memory}, m.wf = true → (plotted b r m ps).wf = true
  | [], _, h => h
  | (_, _) :: rest, _, h => wf_plotted b r rest (wf_touched h _ _)

theorem below_plotted (b : Build) (r : BitVec 2) :
    ∀ (ps : List (Point × Bool)) {m : Memory}, m.below b.fbLen = true → (plotted b r m ps).below b.fbLen = true
  | [], _, h => h
  | (_, _) :: rest, _, h => below_plotted b r rest (below_touched h _ _)

/-- A byte that holds none of the plotted points is unchanged. -/
theorem read_plotted_ne {b : Build} {r : BitVec 2} {i : Nat} :
    ∀ (ps : List (Point × Bool)) (m : Memory),
      (∀ pc ∈ ps, inBounds b (rotate b r pc.1) = true →
        i ≠ pixelIndex b (rotate b r pc.1).1.toNat (rotate b r pc.1).2.toNat) →
      (plotted b r m ps).read i = m.read i
  | [], _, _ => rfl
  | (p, c) :: rest, m, h => by
    rw [plotted, read_plotted_ne rest _ fun pc hpc => h pc (List.mem_cons_of_mem _ hpc)]
    exact read_touched_ne m _ (h (p, c) (List.mem_cons_self ..))

/-- Plots that all have one colour: the plotted pixels have it, every other pixel keeps its value (R220). -/
theorem pixelAt_plotted_same {b : Build} {r : BitVec 2} {c : Bool} {q : Point} (hq : inBounds b q = true) :
    ∀ (ps : List Point) {m : Memory}, m.wf = true →
      pixelAt b (plotted b r m (ps.map fun p => (p, c))) q =
        if ∃ p ∈ ps, rotate b r p = q then colourValue b.variant c else pixelAt b m q
  | [], m, _ => by simp [plotted]
  | p :: rest, m, hm => by
    rw [List.map_cons, plotted, pixelAt_plotted_same hq rest (wf_touched hm _ _), pixelAt_touched_colour hm c hq]
    by_cases h1 : ∃ p' ∈ rest, rotate b r p' = q
    · rw [if_pos h1, if_pos]
      obtain ⟨p', hp', e⟩ := h1
      exact ⟨p', List.mem_cons_of_mem _ hp', e⟩
    · rw [if_neg h1]
      by_cases h2 : q = rotate b r p
      · rw [if_pos h2, if_pos ⟨p, List.mem_cons_self .., h2.symm⟩]
      · rw [if_neg h2, if_neg]
        rintro ⟨p', hp', e⟩
        rcases List.mem_cons.1 hp' with rfl | hp'
        · exact h2 e.symm
        · exact h1 ⟨p', hp', e⟩

end Sys2Proof.Machine
end

