-- ==== Sys2Proof/Laws/State.lean ====
section
/-!
SUPPORT. Laws/State.lean: each field after each named update of the state, so that no proof unfolds a record update.
-/

namespace Sys2Proof.Machine

/-! ### setFb -/

section
variable (s : State) (m : Memory)

@[simp] theorem State.setFb_fb : (s.setFb m).fb = m := rfl
@[simp] theorem State.setFb_rot : (s.setFb m).rot = s.rot := rfl
@[simp] theorem State.setFb_pwr : (s.setFb m).pwr = s.pwr := rfl
@[simp] theorem State.setFb_err : (s.setFb m).err = s.err := rfl
@[simp] theorem State.setFb_errCode : (s.setFb m).errCode = s.errCode := rfl
@[simp] theorem State.setFb_result : (s.setFb m).result = s.result := rfl
@[simp] theorem State.setFb_pbuf : (s.setFb m).pbuf = s.pbuf := rfl
@[simp] theorem State.setFb_povf : (s.setFb m).povf = s.povf := rfl
@[simp] theorem State.setFb_seq : (s.setFb m).seq = s.seq := rfl
@[simp] theorem State.setFb_rstN : (s.setFb m).rstN = s.rstN := rfl
@[simp] theorem State.setFb_csN : (s.setFb m).csN = s.csN := rfl
@[simp] theorem State.setFb_dc : (s.setFb m).dc = s.dc := rfl
@[simp] theorem State.setFb_build : (s.setFb m).build = s.build := rfl
@[simp] theorem State.setFb_inputs : (s.setFb m).inputs = s.inputs := rfl
@[simp] theorem State.setFb_answers : (s.setFb m).answers = s.answers := rfl
@[simp] theorem State.setFb_freeCount : (s.setFb m).freeCount = s.freeCount := rfl
@[simp] theorem State.setFb_trace : (s.setFb m).trace = s.trace := rfl
@[simp] theorem State.setFb_reads : (s.setFb m).reads = s.reads := rfl

end

/-! ### setRot -/

section
variable (s : State) (r : BitVec 2)

@[simp] theorem State.setRot_fb : (s.setRot r).fb = s.fb := rfl
@[simp] theorem State.setRot_rot : (s.setRot r).rot = r := rfl
@[simp] theorem State.setRot_pwr : (s.setRot r).pwr = s.pwr := rfl
@[simp] theorem State.setRot_err : (s.setRot r).err = s.err := rfl
@[simp] theorem State.setRot_errCode : (s.setRot r).errCode = s.errCode := rfl
@[simp] theorem State.setRot_result : (s.setRot r).result = s.result := rfl
@[simp] theorem State.setRot_pbuf : (s.setRot r).pbuf = s.pbuf := rfl
@[simp] theorem State.setRot_povf : (s.setRot r).povf = s.povf := rfl
@[simp] theorem State.setRot_seq : (s.setRot r).seq = s.seq := rfl
@[simp] theorem State.setRot_rstN : (s.setRot r).rstN = s.rstN := rfl
@[simp] theorem State.setRot_csN : (s.setRot r).csN = s.csN := rfl
@[simp] theorem State.setRot_dc : (s.setRot r).dc = s.dc := rfl
@[simp] theorem State.setRot_build : (s.setRot r).build = s.build := rfl
@[simp] theorem State.setRot_inputs : (s.setRot r).inputs = s.inputs := rfl
@[simp] theorem State.setRot_answers : (s.setRot r).answers = s.answers := rfl
@[simp] theorem State.setRot_freeCount : (s.setRot r).freeCount = s.freeCount := rfl
@[simp] theorem State.setRot_trace : (s.setRot r).trace = s.trace := rfl
@[simp] theorem State.setRot_reads : (s.setRot r).reads = s.reads := rfl

end

/-! ### setPwr -/

section
variable (s : State) (p : Power)

@[simp] theorem State.setPwr_fb : (s.setPwr p).fb = s.fb := rfl
@[simp] theorem State.setPwr_rot : (s.setPwr p).rot = s.rot := rfl
@[simp] theorem State.setPwr_pwr : (s.setPwr p).pwr = p := rfl
@[simp] theorem State.setPwr_err : (s.setPwr p).err = s.err := rfl
@[simp] theorem State.setPwr_errCode : (s.setPwr p).errCode = s.errCode := rfl
@[simp] theorem State.setPwr_result : (s.setPwr p).result = s.result := rfl
@[simp] theorem State.setPwr_pbuf : (s.setPwr p).pbuf = s.pbuf := rfl
@[simp] theorem State.setPwr_povf : (s.setPwr p).povf = s.povf := rfl
@[simp] theorem State.setPwr_seq : (s.setPwr p).seq = s.seq := rfl
@[simp] theorem State.setPwr_rstN : (s.setPwr p).rstN = s.rstN := rfl
@[simp] theorem State.setPwr_csN : (s.setPwr p).csN = s.csN := rfl
@[simp] theorem State.setPwr_dc : (s.setPwr p).dc = s.dc := rfl
@[simp] theorem State.setPwr_build : (s.setPwr p).build = s.build := rfl
@[simp] theorem State.setPwr_inputs : (s.setPwr p).inputs = s.inputs := rfl
@[simp] theorem State.setPwr_answers : (s.setPwr p).answers = s.answers := rfl
@[simp] theorem State.setPwr_freeCount : (s.setPwr p).freeCount = s.freeCount := rfl
@[simp] theorem State.setPwr_trace : (s.setPwr p).trace = s.trace := rfl
@[simp] theorem State.setPwr_reads : (s.setPwr p).reads = s.reads := rfl

end

/-! ### setResult -/

section
variable (s : State) (v : Word)

@[simp] theorem State.setResult_fb : (s.setResult v).fb = s.fb := rfl
@[simp] theorem State.setResult_rot : (s.setResult v).rot = s.rot := rfl
@[simp] theorem State.setResult_pwr : (s.setResult v).pwr = s.pwr := rfl
@[simp] theorem State.setResult_err : (s.setResult v).err = s.err := rfl
@[simp] theorem State.setResult_errCode : (s.setResult v).errCode = s.errCode := rfl
@[simp] theorem State.setResult_result : (s.setResult v).result = v := rfl
@[simp] theorem State.setResult_pbuf : (s.setResult v).pbuf = s.pbuf := rfl
@[simp] theorem State.setResult_povf : (s.setResult v).povf = s.povf := rfl
@[simp] theorem State.setResult_seq : (s.setResult v).seq = s.seq := rfl
@[simp] theorem State.setResult_rstN : (s.setResult v).rstN = s.rstN := rfl
@[simp] theorem State.setResult_csN : (s.setResult v).csN = s.csN := rfl
@[simp] theorem State.setResult_dc : (s.setResult v).dc = s.dc := rfl
@[simp] theorem State.setResult_build : (s.setResult v).build = s.build := rfl
@[simp] theorem State.setResult_inputs : (s.setResult v).inputs = s.inputs := rfl
@[simp] theorem State.setResult_answers : (s.setResult v).answers = s.answers := rfl
@[simp] theorem State.setResult_freeCount : (s.setResult v).freeCount = s.freeCount := rfl
@[simp] theorem State.setResult_trace : (s.setResult v).trace = s.trace := rfl
@[simp] theorem State.setResult_reads : (s.setResult v).reads = s.reads := rfl

end

/-! ### setSeq -/

section
variable (s : State) (q : Seq)

@[simp] theorem State.setSeq_fb : (s.setSeq q).fb = s.fb := rfl
@[simp] theorem State.setSeq_rot : (s.setSeq q).rot = s.rot := rfl
@[simp] theorem State.setSeq_pwr : (s.setSeq q).pwr = s.pwr := rfl
@[simp] theorem State.setSeq_err : (s.setSeq q).err = s.err := rfl
@[simp] theorem State.setSeq_errCode : (s.setSeq q).errCode = s.errCode := rfl
@[simp] theorem State.setSeq_result : (s.setSeq q).result = s.result := rfl
@[simp] theorem State.setSeq_pbuf : (s.setSeq q).pbuf = s.pbuf := rfl
@[simp] theorem State.setSeq_povf : (s.setSeq q).povf = s.povf := rfl
@[simp] theorem State.setSeq_seq : (s.setSeq q).seq = q := rfl
@[simp] theorem State.setSeq_rstN : (s.setSeq q).rstN = s.rstN := rfl
@[simp] theorem State.setSeq_csN : (s.setSeq q).csN = s.csN := rfl
@[simp] theorem State.setSeq_dc : (s.setSeq q).dc = s.dc := rfl
@[simp] theorem State.setSeq_build : (s.setSeq q).build = s.build := rfl
@[simp] theorem State.setSeq_inputs : (s.setSeq q).inputs = s.inputs := rfl
@[simp] theorem State.setSeq_answers : (s.setSeq q).answers = s.answers := rfl
@[simp] theorem State.setSeq_freeCount : (s.setSeq q).freeCount = s.freeCount := rfl
@[simp] theorem State.setSeq_trace : (s.setSeq q).trace = s.trace := rfl
@[simp] theorem State.setSeq_reads : (s.setSeq q).reads = s.reads := rfl

end

/-! ### commit -/

section
variable (s : State)

@[simp] theorem State.commit_fb : s.commit.fb = s.fb := rfl
@[simp] theorem State.commit_rot : s.commit.rot = s.rot := rfl
@[simp] theorem State.commit_pwr : s.commit.pwr = s.pwr := rfl
@[simp] theorem State.commit_err : s.commit.err = s.err := rfl
@[simp] theorem State.commit_errCode : s.commit.errCode = s.errCode := rfl
@[simp] theorem State.commit_result : s.commit.result = s.result := rfl
@[simp] theorem State.commit_pbuf : s.commit.pbuf = s.pbuf := rfl
@[simp] theorem State.commit_povf : s.commit.povf = s.povf := rfl
@[simp] theorem State.commit_seq : s.commit.seq = .idle := rfl
@[simp] theorem State.commit_rstN : s.commit.rstN = s.rstN := rfl
@[simp] theorem State.commit_csN : s.commit.csN = s.csN := rfl
@[simp] theorem State.commit_dc : s.commit.dc = s.dc := rfl
@[simp] theorem State.commit_build : s.commit.build = s.build := rfl
@[simp] theorem State.commit_inputs : s.commit.inputs = s.inputs := rfl
@[simp] theorem State.commit_answers : s.commit.answers = s.answers := rfl
@[simp] theorem State.commit_freeCount : s.commit.freeCount = s.freeCount := rfl
@[simp] theorem State.commit_trace : s.commit.trace = s.trace := rfl
@[simp] theorem State.commit_reads : s.commit.reads = s.reads := rfl

end

/-! ### clearRecord -/

section
variable (s : State)

@[simp] theorem State.clearRecord_fb : s.clearRecord.fb = s.fb := rfl
@[simp] theorem State.clearRecord_rot : s.clearRecord.rot = s.rot := rfl
@[simp] theorem State.clearRecord_pwr : s.clearRecord.pwr = s.pwr := rfl
@[simp] theorem State.clearRecord_err : s.clearRecord.err = false := rfl
@[simp] theorem State.clearRecord_errCode : s.clearRecord.errCode = .noError := rfl
@[simp] theorem State.clearRecord_result : s.clearRecord.result = s.result := rfl
@[simp] theorem State.clearRecord_pbuf : s.clearRecord.pbuf = s.pbuf := rfl
@[simp] theorem State.clearRecord_povf : s.clearRecord.povf = s.povf := rfl
@[simp] theorem State.clearRecord_seq : s.clearRecord.seq = s.seq := rfl
@[simp] theorem State.clearRecord_rstN : s.clearRecord.rstN = s.rstN := rfl
@[simp] theorem State.clearRecord_csN : s.clearRecord.csN = s.csN := rfl
@[simp] theorem State.clearRecord_dc : s.clearRecord.dc = s.dc := rfl
@[simp] theorem State.clearRecord_build : s.clearRecord.build = s.build := rfl
@[simp] theorem State.clearRecord_inputs : s.clearRecord.inputs = s.inputs := rfl
@[simp] theorem State.clearRecord_answers : s.clearRecord.answers = s.answers := rfl
@[simp] theorem State.clearRecord_freeCount : s.clearRecord.freeCount = s.freeCount := rfl
@[simp] theorem State.clearRecord_trace : s.clearRecord.trace = s.trace := rfl
@[simp] theorem State.clearRecord_reads : s.clearRecord.reads = s.reads := rfl

end

/-! ### accept -/

section
variable (s : State) (p : Packet)

@[simp] theorem State.accept_fb : (s.accept p).fb = s.fb := rfl
@[simp] theorem State.accept_rot : (s.accept p).rot = s.rot := rfl
@[simp] theorem State.accept_pwr : (s.accept p).pwr = startPower s.build.variant p s.pwr := rfl
@[simp] theorem State.accept_err : (s.accept p).err = s.err := rfl
@[simp] theorem State.accept_errCode : (s.accept p).errCode = s.errCode := rfl
@[simp] theorem State.accept_result : (s.accept p).result = s.result := rfl
@[simp] theorem State.accept_pbuf : (s.accept p).pbuf = s.pbuf := rfl
@[simp] theorem State.accept_povf : (s.accept p).povf = s.povf := rfl
@[simp] theorem State.accept_seq : (s.accept p).seq = .exec p 0 none := rfl
@[simp] theorem State.accept_rstN : (s.accept p).rstN = s.rstN := rfl
@[simp] theorem State.accept_csN : (s.accept p).csN = s.csN := rfl
@[simp] theorem State.accept_dc : (s.accept p).dc = s.dc := rfl
@[simp] theorem State.accept_build : (s.accept p).build = s.build := rfl
@[simp] theorem State.accept_inputs : (s.accept p).inputs = s.inputs := rfl
@[simp] theorem State.accept_answers : (s.accept p).answers = s.answers := rfl
@[simp] theorem State.accept_freeCount : (s.accept p).freeCount = s.freeCount := rfl
@[simp] theorem State.accept_trace : (s.accept p).trace = s.trace := rfl
@[simp] theorem State.accept_reads : (s.accept p).reads = s.reads := rfl

end

/-! ### endEvent -/

section
variable (s : State) (e : TxEvent) (how : Ending)

@[simp] theorem State.endEvent_fb : (s.endEvent e how).fb = s.fb := rfl
@[simp] theorem State.endEvent_rot : (s.endEvent e how).rot = s.rot := rfl
@[simp] theorem State.endEvent_pwr : (s.endEvent e how).pwr = s.pwr := rfl
@[simp] theorem State.endEvent_err : (s.endEvent e how).err = s.err := rfl
@[simp] theorem State.endEvent_errCode : (s.endEvent e how).errCode = s.errCode := rfl
@[simp] theorem State.endEvent_result : (s.endEvent e how).result = s.result := rfl
@[simp] theorem State.endEvent_pbuf : (s.endEvent e how).pbuf = s.pbuf := rfl
@[simp] theorem State.endEvent_povf : (s.endEvent e how).povf = s.povf := rfl
@[simp] theorem State.endEvent_seq : (s.endEvent e how).seq = s.seq := rfl
@[simp] theorem State.endEvent_rstN : (s.endEvent e how).rstN = s.rstN := rfl
@[simp] theorem State.endEvent_csN : (s.endEvent e how).csN = (s.csN || e.isFrame) := rfl
@[simp] theorem State.endEvent_dc : (s.endEvent e how).dc = s.dc := rfl
@[simp] theorem State.endEvent_build : (s.endEvent e how).build = s.build := rfl
@[simp] theorem State.endEvent_inputs : (s.endEvent e how).inputs = s.inputs := rfl
@[simp] theorem State.endEvent_answers : (s.endEvent e how).answers = s.answers := rfl
@[simp] theorem State.endEvent_freeCount : (s.endEvent e how).freeCount = s.freeCount := rfl
@[simp] theorem State.endEvent_trace : (s.endEvent e how).trace = s.trace ++ [(e, how)] := rfl
@[simp] theorem State.endEvent_reads : (s.endEvent e how).reads = s.reads := rfl

end

/-! ### recordErr -/

section
variable (s : State) (c : ErrCode)

@[simp] theorem State.recordErr_fb : (s.recordErr c).fb = s.fb := by
  unfold State.recordErr; split <;> simp_all
@[simp] theorem State.recordErr_rot : (s.recordErr c).rot = s.rot := by
  unfold State.recordErr; split <;> simp_all
@[simp] theorem State.recordErr_pwr : (s.recordErr c).pwr = s.pwr := by
  unfold State.recordErr; split <;> simp_all
@[simp] theorem State.recordErr_err : (s.recordErr c).err = true := by
  unfold State.recordErr; split <;> simp_all
@[simp] theorem State.recordErr_errCode : (s.recordErr c).errCode = if s.err then s.errCode else c := by
  unfold State.recordErr; split <;> simp_all
@[simp] theorem State.recordErr_result : (s.recordErr c).result = s.result := by
  unfold State.recordErr; split <;> simp_all
@[simp] theorem State.recordErr_pbuf : (s.recordErr c).pbuf = s.pbuf := by
  unfold State.recordErr; split <;> simp_all
@[simp] theorem State.recordErr_povf : (s.recordErr c).povf = s.povf := by
  unfold State.recordErr; split <;> simp_all
@[simp] theorem State.recordErr_seq : (s.recordErr c).seq = s.seq := by
  unfold State.recordErr; split <;> simp_all
@[simp] theorem State.recordErr_rstN : (s.recordErr c).rstN = s.rstN := by
  unfold State.recordErr; split <;> simp_all
@[simp] theorem State.recordErr_csN : (s.recordErr c).csN = s.csN := by
  unfold State.recordErr; split <;> simp_all
@[simp] theorem State.recordErr_dc : (s.recordErr c).dc = s.dc := by
  unfold State.recordErr; split <;> simp_all
@[simp] theorem State.recordErr_build : (s.recordErr c).build = s.build := by
  unfold State.recordErr; split <;> simp_all
@[simp] theorem State.recordErr_inputs : (s.recordErr c).inputs = s.inputs := by
  unfold State.recordErr; split <;> simp_all
@[simp] theorem State.recordErr_answers : (s.recordErr c).answers = s.answers := by
  unfold State.recordErr; split <;> simp_all
@[simp] theorem State.recordErr_freeCount : (s.recordErr c).freeCount = s.freeCount := by
  unfold State.recordErr; split <;> simp_all
@[simp] theorem State.recordErr_trace : (s.recordErr c).trace = s.trace := by
  unfold State.recordErr; split <;> simp_all
@[simp] theorem State.recordErr_reads : (s.recordErr c).reads = s.reads := by
  unfold State.recordErr; split <;> simp_all

end

/-! ### raise -/

section
variable (s : State) (c : ErrCode)

@[simp] theorem State.raise_fb : (s.raise c).fb = s.fb := by
  simp [State.raise]
@[simp] theorem State.raise_rot : (s.raise c).rot = s.rot := by
  simp [State.raise]
@[simp] theorem State.raise_pwr : (s.raise c).pwr = s.pwr := by
  simp [State.raise]
@[simp] theorem State.raise_err : (s.raise c).err = true := by
  simp [State.raise]
@[simp] theorem State.raise_errCode : (s.raise c).errCode = if s.err then s.errCode else c := by
  simp [State.raise]
@[simp] theorem State.raise_result : (s.raise c).result = s.result := by
  simp [State.raise]
@[simp] theorem State.raise_pbuf : (s.raise c).pbuf = s.pbuf := by
  simp [State.raise]
@[simp] theorem State.raise_povf : (s.raise c).povf = s.povf := by
  simp [State.raise]
@[simp] theorem State.raise_seq : (s.raise c).seq = .idle := by
  simp [State.raise]
@[simp] theorem State.raise_rstN : (s.raise c).rstN = s.rstN := by
  simp [State.raise]
@[simp] theorem State.raise_csN : (s.raise c).csN = s.csN := by
  simp [State.raise]
@[simp] theorem State.raise_dc : (s.raise c).dc = s.dc := by
  simp [State.raise]
@[simp] theorem State.raise_build : (s.raise c).build = s.build := by
  simp [State.raise]
@[simp] theorem State.raise_inputs : (s.raise c).inputs = s.inputs := by
  simp [State.raise]
@[simp] theorem State.raise_answers : (s.raise c).answers = s.answers := by
  simp [State.raise]
@[simp] theorem State.raise_freeCount : (s.raise c).freeCount = s.freeCount := by
  simp [State.raise]
@[simp] theorem State.raise_trace : (s.raise c).trace = s.trace := by
  simp [State.raise]
@[simp] theorem State.raise_reads : (s.raise c).reads = s.reads := by
  simp [State.raise]

end

/-! ### drivePins -/

section
variable (s : State) (e : TxEvent)

@[simp] theorem State.drivePins_fb : (s.drivePins e).fb = s.fb := by
  cases e <;> rfl
@[simp] theorem State.drivePins_rot : (s.drivePins e).rot = s.rot := by
  cases e <;> rfl
@[simp] theorem State.drivePins_pwr : (s.drivePins e).pwr = s.pwr := by
  cases e <;> rfl
@[simp] theorem State.drivePins_err : (s.drivePins e).err = s.err := by
  cases e <;> rfl
@[simp] theorem State.drivePins_errCode : (s.drivePins e).errCode = s.errCode := by
  cases e <;> rfl
@[simp] theorem State.drivePins_result : (s.drivePins e).result = s.result := by
  cases e <;> rfl
@[simp] theorem State.drivePins_pbuf : (s.drivePins e).pbuf = s.pbuf := by
  cases e <;> rfl
@[simp] theorem State.drivePins_povf : (s.drivePins e).povf = s.povf := by
  cases e <;> rfl
@[simp] theorem State.drivePins_seq : (s.drivePins e).seq = s.seq := by
  cases e <;> rfl
@[simp] theorem State.drivePins_build : (s.drivePins e).build = s.build := by
  cases e <;> rfl
@[simp] theorem State.drivePins_inputs : (s.drivePins e).inputs = s.inputs := by
  cases e <;> rfl
@[simp] theorem State.drivePins_answers : (s.drivePins e).answers = s.answers := by
  cases e <;> rfl
@[simp] theorem State.drivePins_freeCount : (s.drivePins e).freeCount = s.freeCount := by
  cases e <;> rfl
@[simp] theorem State.drivePins_trace : (s.drivePins e).trace = s.trace := by
  cases e <;> rfl
@[simp] theorem State.drivePins_reads : (s.drivePins e).reads = s.reads := by
  cases e <;> rfl

end

/-! ### takeAnswer -/

section
variable (s : State)

@[simp] theorem State.takeAnswer_fb : s.takeAnswer.fb = s.fb := by
  unfold State.takeAnswer; split <;> simp_all
@[simp] theorem State.takeAnswer_rot : s.takeAnswer.rot = s.rot := by
  unfold State.takeAnswer; split <;> simp_all
@[simp] theorem State.takeAnswer_pwr : s.takeAnswer.pwr = s.pwr := by
  unfold State.takeAnswer; split <;> simp_all
@[simp] theorem State.takeAnswer_err : s.takeAnswer.err = s.err := by
  unfold State.takeAnswer; split <;> simp_all
@[simp] theorem State.takeAnswer_errCode : s.takeAnswer.errCode = s.errCode := by
  unfold State.takeAnswer; split <;> simp_all
@[simp] theorem State.takeAnswer_result : s.takeAnswer.result = s.result := by
  unfold State.takeAnswer; split <;> simp_all
@[simp] theorem State.takeAnswer_pbuf : s.takeAnswer.pbuf = s.pbuf := by
  unfold State.takeAnswer; split <;> simp_all
@[simp] theorem State.takeAnswer_povf : s.takeAnswer.povf = s.povf := by
  unfold State.takeAnswer; split <;> simp_all
@[simp] theorem State.takeAnswer_seq : s.takeAnswer.seq = s.seq := by
  unfold State.takeAnswer; split <;> simp_all
@[simp] theorem State.takeAnswer_rstN : s.takeAnswer.rstN = s.rstN := by
  unfold State.takeAnswer; split <;> simp_all
@[simp] theorem State.takeAnswer_csN : s.takeAnswer.csN = s.csN := by
  unfold State.takeAnswer; split <;> simp_all
@[simp] theorem State.takeAnswer_dc : s.takeAnswer.dc = s.dc := by
  unfold State.takeAnswer; split <;> simp_all
@[simp] theorem State.takeAnswer_build : s.takeAnswer.build = s.build := by
  unfold State.takeAnswer; split <;> simp_all
@[simp] theorem State.takeAnswer_inputs : s.takeAnswer.inputs = s.inputs := by
  unfold State.takeAnswer; split <;> simp_all
@[simp] theorem State.takeAnswer_answers : s.takeAnswer.answers = s.answers.tail := by
  unfold State.takeAnswer; split <;> simp_all
@[simp] theorem State.takeAnswer_trace : s.takeAnswer.trace = s.trace := by
  unfold State.takeAnswer; split <;> simp_all
@[simp] theorem State.takeAnswer_reads : s.takeAnswer.reads = s.reads := by
  unfold State.takeAnswer; split <;> simp_all

end

/-! ### issue -/

section
variable (s : State) (p : Packet) (k : Nat) (e : TxEvent)

@[simp] theorem State.issue_fb : (s.issue p k e).fb = s.fb := by
  simp [State.issue]
@[simp] theorem State.issue_rot : (s.issue p k e).rot = s.rot := by
  simp [State.issue]
@[simp] theorem State.issue_pwr : (s.issue p k e).pwr = s.pwr := by
  simp [State.issue]
@[simp] theorem State.issue_err : (s.issue p k e).err = s.err := by
  simp [State.issue]
@[simp] theorem State.issue_errCode : (s.issue p k e).errCode = s.errCode := by
  simp [State.issue]
@[simp] theorem State.issue_result : (s.issue p k e).result = s.result := by
  simp [State.issue]
@[simp] theorem State.issue_pbuf : (s.issue p k e).pbuf = s.pbuf := by
  simp [State.issue]
@[simp] theorem State.issue_povf : (s.issue p k e).povf = s.povf := by
  simp [State.issue]
@[simp] theorem State.issue_seq : (s.issue p k e).seq = .exec p k (some e) := by
  simp [State.issue]
@[simp] theorem State.issue_build : (s.issue p k e).build = s.build := by
  simp [State.issue]
@[simp] theorem State.issue_inputs : (s.issue p k e).inputs = s.inputs := by
  simp [State.issue]
@[simp] theorem State.issue_answers : (s.issue p k e).answers = s.answers := by
  simp [State.issue]
@[simp] theorem State.issue_freeCount : (s.issue p k e).freeCount = s.freeCount := by
  simp [State.issue]
@[simp] theorem State.issue_trace : (s.issue p k e).trace = s.trace := by
  simp [State.issue]
@[simp] theorem State.issue_reads : (s.issue p k e).reads = s.reads := by
  simp [State.issue]

end

/-! ### eventOk -/

section
variable (s : State) (p : Packet) (k : Nat) (e : TxEvent)

@[simp] theorem State.eventOk_fb : (s.eventOk p k e).fb = s.fb := by
  simp [State.eventOk]
@[simp] theorem State.eventOk_rot : (s.eventOk p k e).rot = s.rot := by
  simp [State.eventOk]
@[simp] theorem State.eventOk_pwr : (s.eventOk p k e).pwr = s.pwr := by
  simp [State.eventOk]
@[simp] theorem State.eventOk_err : (s.eventOk p k e).err = s.err := by
  simp [State.eventOk]
@[simp] theorem State.eventOk_errCode : (s.eventOk p k e).errCode = s.errCode := by
  simp [State.eventOk]
@[simp] theorem State.eventOk_result : (s.eventOk p k e).result = s.result := by
  simp [State.eventOk]
@[simp] theorem State.eventOk_pbuf : (s.eventOk p k e).pbuf = s.pbuf := by
  simp [State.eventOk]
@[simp] theorem State.eventOk_povf : (s.eventOk p k e).povf = s.povf := by
  simp [State.eventOk]
@[simp] theorem State.eventOk_seq : (s.eventOk p k e).seq = .exec p (k + 1) none := by
  simp [State.eventOk]
@[simp] theorem State.eventOk_rstN : (s.eventOk p k e).rstN = s.rstN := by
  simp [State.eventOk]
@[simp] theorem State.eventOk_csN : (s.eventOk p k e).csN = (s.csN || e.isFrame) := by
  simp [State.eventOk]
@[simp] theorem State.eventOk_dc : (s.eventOk p k e).dc = s.dc := by
  simp [State.eventOk]
@[simp] theorem State.eventOk_build : (s.eventOk p k e).build = s.build := by
  simp [State.eventOk]
@[simp] theorem State.eventOk_inputs : (s.eventOk p k e).inputs = s.inputs := by
  simp [State.eventOk]
@[simp] theorem State.eventOk_answers : (s.eventOk p k e).answers = s.answers := by
  simp [State.eventOk]
@[simp] theorem State.eventOk_freeCount : (s.eventOk p k e).freeCount = s.freeCount := by
  simp [State.eventOk]
@[simp] theorem State.eventOk_trace : (s.eventOk p k e).trace = s.trace ++ [(e, .ok)] := by
  simp [State.eventOk]
@[simp] theorem State.eventOk_reads : (s.eventOk p k e).reads = s.reads := by
  simp [State.eventOk]

end

/-! ### eventFail -/

section
variable (s : State) (e : TxEvent)

@[simp] theorem State.eventFail_fb : (s.eventFail e).fb = s.fb := by
  simp [State.eventFail]
@[simp] theorem State.eventFail_rot : (s.eventFail e).rot = s.rot := by
  simp [State.eventFail]
@[simp] theorem State.eventFail_pwr : (s.eventFail e).pwr = .uninitialized := by
  simp [State.eventFail]
@[simp] theorem State.eventFail_err : (s.eventFail e).err = true := by
  simp [State.eventFail]
@[simp] theorem State.eventFail_errCode : (s.eventFail e).errCode = if s.err then s.errCode else .transportFail := by
  simp [State.eventFail]; rfl
@[simp] theorem State.eventFail_result : (s.eventFail e).result = s.result := by
  simp [State.eventFail]
@[simp] theorem State.eventFail_pbuf : (s.eventFail e).pbuf = s.pbuf := by
  simp [State.eventFail]
@[simp] theorem State.eventFail_povf : (s.eventFail e).povf = s.povf := by
  simp [State.eventFail]
@[simp] theorem State.eventFail_seq : (s.eventFail e).seq = .idle := by
  simp [State.eventFail]
@[simp] theorem State.eventFail_rstN : (s.eventFail e).rstN = s.rstN := by
  simp [State.eventFail]
@[simp] theorem State.eventFail_csN : (s.eventFail e).csN = (s.csN || e.isFrame) := by
  simp [State.eventFail]
@[simp] theorem State.eventFail_dc : (s.eventFail e).dc = s.dc := by
  simp [State.eventFail]
@[simp] theorem State.eventFail_build : (s.eventFail e).build = s.build := by
  simp [State.eventFail]
@[simp] theorem State.eventFail_inputs : (s.eventFail e).inputs = s.inputs := by
  simp [State.eventFail]
@[simp] theorem State.eventFail_answers : (s.eventFail e).answers = s.answers := by
  simp [State.eventFail]
@[simp] theorem State.eventFail_freeCount : (s.eventFail e).freeCount = s.freeCount := by
  simp [State.eventFail]
@[simp] theorem State.eventFail_trace : (s.eventFail e).trace = s.trace ++ [(e, .fail)] := by
  simp [State.eventFail]
@[simp] theorem State.eventFail_reads : (s.eventFail e).reads = s.reads := by
  simp [State.eventFail]

end

end Sys2Proof.Machine
end

