-- ==== Sys2Proof/Laws/Exec.lean ====
section
/-!
SUPPORT. Laws/Exec.lean: what one sequencer step of an operation can do, said once (`exec_cases`), and what the shared operations
under it do: drawing, the transport events (41_protocol.md rules R170 to R174), the glyph fetch (43_font.md rule R261).
-/

namespace Sys2Proof.Machine

/-! ### Drawing -/

theorem finishFb_ok (s : State) (m : Memory) : s.finishFb (.ok m) = .next (s.setFb m).commit := rfl

theorem writePhys_eq (b : Build) (m : Memory) (q : Point) (c : Bool) :
    writePhys b m q c = .ok (touched b m q fun x y => putColour b.variant x y c) :=
  writePhysWith_eq ..

theorem plot_eq (b : Build) (r : BitVec 2) (m : Memory) (p : Point) (c : Bool) :
    plot b r m p c = .ok (touched b m (rotate b r p) fun x y => putColour b.variant x y c) := by
  rw [plot, writePhys_eq]

theorem plotGray_eq (b : Build) (r : BitVec 2) (m : Memory) (p : Point) (g : Byte) :
    plotGray b r m p g = .ok (touched b m (rotate b r p) fun x y => putLevel x y g) := by
  rw [plotGray, writePhysGray, writePhysWith_eq]

/-- A rasterizer operation always commits, with its points plotted (R220). -/
theorem drawPoints_eq (s : State) (ps : List Point) (cb : Byte) :
    drawPoints s ps cb = .next (s.setFb (plotted s.build s.rot s.fb (ps.map fun p => (p, colour cb)))).commit := by
  simp only [drawPoints, plotPoints, plotAll_eq, finishFb_ok]

/-- A text operation whose glyph bits are in the ROM commits, with its points plotted (R265, R267). -/
theorem drawPlots_ok (s : State) (ps : List (Point × Bool)) :
    drawPlots s (.ok ps) = .next (s.setFb (plotted s.build s.rot s.fb ps)).commit := by
  simp only [drawPlots, plotAll_eq, finishFb_ok]

/-- A pixel inside the panel is read without a fault (R62, R142). -/
theorem readPhys_eq {b : Build} {m : Memory} {q : Point} (h : inBounds b q = true) :
    readPhys b m q = .ok (pixelAt b m q) := by
  simp [readPhys, fbRead, pixelIndex_lt h, pixelAt]

/-- READ_PIXEL's value, which is always there (R146). -/
theorem readLogical_eq (b : Build) (r : BitVec 2) (m : Memory) (p : Point) :
    readLogical b r m p =
      .ok (if inBounds b (rotate b r p) then BitVec.ofNat 32 (pixelAt b m (rotate b r p)) else outOfBoundsResult) := by
  unfold readLogical
  split
  · rename_i h; simp [readPhys_eq h]
  · rfl

/-! ### Glyphs -/

theorem bytesFor_le_of_lt {n i : Nat} (h : i < n) : i / 8 + 1 ≤ bytesFor n := by
  unfold bytesFor; omega

/-- In a conforming font every bit of a glyph is in the ROM (R261). -/
theorem glyphBit_isOk {f : Font} (h : f.Conforming) (ch : Byte) {i j : Nat} (hi : i < f.width) (hj : j < f.height) :
    ∃ bit, glyphBit f (glyphSelect f ch) i j = .ok bit := by
  obtain ⟨-, -, -, -, -, hrec, hrom⟩ := h
  unfold glyphSelect
  by_cases hin : inFont f ch = true
  · rw [if_pos hin]
    simp only [inFont, decide_eq_true_eq] at hin
    have hlt : (glyphBitPlace f ((ch.toNat - f.first.toNat) * f.bpc) i j).1 < f.rom.length := by
      have hplace : (glyphBitPlace f ((ch.toNat - f.first.toNat) * f.bpc) i j).1 + 1 ≤
          (ch.toNat - f.first.toNat) * f.bpc + f.recordBytes := by
        unfold glyphBitPlace Font.recordBytes
        cases f.layout
        · have := bytesFor_le_of_lt hi
          have := Nat.mul_le_mul_right (bytesFor f.width) (show j + 1 ≤ f.height from hj)
          simp only [Nat.add_mul, Nat.one_mul] at this ⊢
          omega
        · have := bytesFor_le_of_lt hj
          have := Nat.mul_le_mul_right (bytesFor f.height) (show i + 1 ≤ f.width from hi)
          simp only [Nat.add_mul, Nat.one_mul] at this ⊢
          omega
      have hspace := Nat.mul_le_mul_right f.bpc
        (show ch.toNat - f.first.toNat + 1 ≤ f.last.toNat + 1 - f.first.toNat by omega)
      rw [hrom, Font.romLen]
      simp only [Nat.add_mul, Nat.one_mul] at hspace
      omega
    simp [glyphBit, romRead, List.getElem?_eq_getElem hlt]
  · rw [if_neg hin]
    exact ⟨false, rfl⟩

theorem cellPlots_isOk {f : Font} (h : f.Conforming) (ch : Byte) (o : Point) (c : Bool) :
    ∀ cells : List (Nat × Nat), (∀ ij ∈ cells, ij.1 < f.width ∧ ij.2 < f.height) →
      ∃ ps, cellPlots f (glyphSelect f ch) o c cells = .ok ps
  | [], _ => ⟨[], rfl⟩
  | (i, j) :: rest, hc => by
    obtain ⟨hi, hj⟩ := hc (i, j) (List.mem_cons_self ..)
    obtain ⟨bit, hbit⟩ := glyphBit_isOk h ch hi hj
    obtain ⟨ps, hps⟩ := cellPlots_isOk h ch o c rest fun ij hij => hc ij (List.mem_cons_of_mem _ hij)
    simp [cellPlots, hbit, hps]

theorem mem_glyphCells {f : Font} {ij : Nat × Nat} : ij ∈ glyphCells f ↔ ij.1 < f.width ∧ ij.2 < f.height := by
  obtain ⟨i, j⟩ := ij
  simp only [glyphCells, List.mem_flatMap, List.mem_range, List.mem_map, Prod.mk.injEq]
  constructor
  · rintro ⟨b, hb, a, ha, rfl, rfl⟩; exact ⟨ha, hb⟩
  · rintro ⟨ha, hb⟩; exact ⟨j, hb, i, ha, rfl, rfl⟩

/-- In a conforming font a glyph's plots are always there (R261, R265). -/
theorem glyphPlots_isOk {f : Font} (h : f.Conforming) (o : Point) (ch : Byte) (c : Bool) :
    ∃ ps, glyphPlots f o ch c = .ok ps :=
  cellPlots_isOk h ch o c _ fun _ hij => mem_glyphCells.1 hij

/-- In a conforming font a string's plots are always there (R261, R267). -/
theorem stringPlots_isOk {f : Font} (h : f.Conforming) (c : Bool) :
    ∀ (chars : List Byte) (o : Point), ∃ ps, stringPlots f c o chars = .ok ps
  | [], _ => ⟨[], rfl⟩
  | ch :: rest, o => by
    obtain ⟨ps, hps⟩ := glyphPlots_isOk h o ch c
    obtain ⟨qs, hqs⟩ := stringPlots_isOk h c rest (o.1 + ((f.width + f.spacing : Nat) : Int), o.2)
    exact ⟨ps ++ qs, by rw [stringPlots, hps, hqs]⟩

/-- The points a glyph plots: each cell pixel, as its bit says (R265, R266). -/
theorem mem_cellPlots {f : Font} {g : Option Nat} {o : Point} {c : Bool} {pc : Point × Bool} :
    ∀ {cells : List (Nat × Nat)} {ps : List (Point × Bool)}, cellPlots f g o c cells = .ok ps →
      (pc ∈ ps ↔ ∃ ij ∈ cells, ∃ bit, glyphBit f g ij.1 ij.2 = .ok bit ∧
        pc ∈ bitPlots f.bg bit (o.1 + (ij.1 : Int), o.2 + (ij.2 : Int)) c)
  | [], ps, h => by
    simp only [cellPlots, Except.ok.injEq] at h
    simp [← h]
  | (i, j) :: rest, ps, h => by
    unfold cellPlots at h
    split at h
    · rename_i bit qs hbit hqs
      simp only [Except.ok.injEq] at h
      rw [← h, List.mem_append, mem_cellPlots hqs]
      cases bit <;> simp [hbit]
    · simp at h
    · simp at h

/-! ### Transport events -/

/-- The three things a sequencer step of an operation with events can do: the event in flight completes, the next event is issued,
or the operation commits (R44, R75, R77). -/
theorem sequence_complete {s : State} {p : Packet} {k : Nat} {e : TxEvent} (h : s.seq = .exec p k (some e))
    (evs : List TxEvent) (f : State → State) : s.sequence evs f = s.complete p k e := by
  simp [State.sequence, h]

theorem sequence_issue {s : State} {p : Packet} {k : Nat} {e : TxEvent} {evs : List TxEvent}
    (h : s.seq = .exec p k none) (he : evs[k]? = some e) (f : State → State) : s.sequence evs f = s.issue p k e := by
  simp [State.sequence, h, he]

theorem sequence_commit {s : State} {p : Packet} {k : Nat} {evs : List TxEvent} (h : s.seq = .exec p k none)
    (hk : evs.length ≤ k) (f : State → State) : s.sequence evs f = (f s).commit := by
  simp [State.sequence, h, List.getElem?_eq_none hk]

/-- A completion with ok (R170). -/
theorem complete_ok {s : State} (p : Packet) (k : Nat) {e : TxEvent} (h : e.canFail = true → s.nextAnswer = true) :
    s.complete p k e = (if e.canFail then s.takeAnswer else s).eventOk p k e := by
  unfold State.complete
  by_cases hc : e.canFail = true <;> simp [hc, h]

/-- A completion with fail (R308). -/
theorem complete_fail {s : State} (p : Packet) (k : Nat) {e : TxEvent} (hc : e.canFail = true)
    (h : s.nextAnswer = false) : s.complete p k e = s.takeAnswer.eventFail e := by
  simp [State.complete, hc, h]

/-! ### One step of an operation -/

/-- What a step of operation `i` that answers next can have done to `s`. -/
inductive ExecCase (i : Instr) (s : State) : State → Prop
  /-- The framebuffer changed, in canonical form and inside its space if it was so before. -/
  | drew (m : Memory) (hi : writesFb i = true) (he : eventList i s = [])
      (hm : FbCanonical s → FbCanonical (s.setFb m)) : ExecCase i s (s.setFb m).commit
  | rotated (a : Byte) (hi : i = .setRot a) : ExecCase i s (s.setRot (a.setWidth 2)).commit
  | gaveResult (v : Word) (hi : (∃ x y, i = .readPixel x y) ∨ ∃ chars, i = .stringWidth chars) :
      ExecCase i s (s.setResult v).commit
  | cleared (hi : i = .clearErr) : ExecCase i s s.clearRecord.commit
  /-- Nothing changed: NOP, and the mode transitions that are redundant (R175). -/
  | idled (hi : i ≠ .init) (he : eventList i s = []) : ExecCase i s s.commit
  | raised (c : ErrCode) (hc : c ≠ .noError) (hi : i ≠ .init) (he : eventList i s = []) : ExecCase i s (s.raise c)
  | init (hi : i = .init) :
      ExecCase i s ((s.setPwr .initializing).sequence (eventList i s) fun t => t.setPwr .highPower)
  /-- A transport operation that keeps PWR. -/
  | emits (hi : i ≠ .init) : ExecCase i s (s.sequence (eventList i s) id)
  /-- A mode transition from a power state to another (R183 to R186). -/
  | switches (target : Power) (hi : i ≠ .init) (he : PowerEdge s.pwr target) (ht : target ≠ .initializing) :
      ExecCase i s (s.sequence (eventList i s) fun t => t.setPwr target)

theorem FbCanonical.touched {s : State} (h : FbCanonical s) (q : Point) (f : Nat → Nat → Byte → Byte) :
    FbCanonical (s.setFb (touched s.build s.fb q f)) :=
  ⟨wf_touched h.1 q f, below_touched h.2 q f⟩

theorem FbCanonical.plotted {s : State} (h : FbCanonical s) (r : BitVec 2) (ps : List (Point × Bool)) :
    FbCanonical (s.setFb (plotted s.build r s.fb ps)) :=
  ⟨wf_plotted _ _ ps h.1, below_plotted _ _ ps h.2⟩

theorem drawPoints_cases {i : Instr} {s t : State} (hi : writesFb i = true) (he : eventList i s = [])
    {ps : List Point} {cb : Byte} (h : drawPoints s ps cb = .next t) : ExecCase i s t := by
  rw [drawPoints_eq] at h
  cases h
  exact .drew _ hi he fun hs => hs.plotted _ _

theorem drawPlots_cases {i : Instr} {s t : State} (hi : writesFb i = true) (he : eventList i s = [])
    {r : Except Fault (List (Point × Bool))} (h : drawPlots s r = .next t) : ExecCase i s t := by
  cases r with
  | error e => cases h
  | ok ps =>
    rw [drawPlots_ok] at h
    cases h
    exact .drew _ hi he fun hs => hs.plotted _ _

/-- If a step of operation `i` answers next, it did one of these things. -/
theorem exec_cases {i : Instr} {s t : State} (h : exec i s = .next t) : ExecCase i s t := by
  cases i with
  | nop => cases h; exact .idled (by simp) rfl
  | clearErr => cases h; exact .cleared rfl
  | plotRaw x y cb =>
    simp only [exec, execPlotRaw, writePhys_eq, finishFb_ok] at h
    cases h; exact .drew _ rfl rfl fun hs => hs.touched _ _
  | drawPixel x y cb =>
    simp only [exec, execDrawPixel, plot_eq, finishFb_ok] at h
    cases h; exact .drew _ rfl rfl fun hs => hs.touched _ _
  | drawPixelGray x y g =>
    simp only [exec, execDrawPixelGray, plotGray_eq, finishFb_ok] at h
    split at h
    · cases h; exact .raised _ (by simp) (by simp) rfl
    · split at h <;> cases h
      · exact .raised _ (by simp) (by simp) rfl
      · exact .drew _ rfl rfl fun hs => hs.touched _ _
  | readPixel x y =>
    simp only [exec, execReadPixel, readLogical_eq] at h
    cases h; exact .gaveResult _ (.inl ⟨_, _, rfl⟩)
  | fill a => cases h; exact .drew _ rfl rfl fun _ => ⟨Memory.wf_filled .., Memory.below_filled ..⟩
  | setRot a => cases h; exact .rotated a rfl
  | init => cases h; exact .init rfl
  | display =>
    simp only [exec, execDisplay] at h
    split at h <;> rename_i hp <;> cases h
    · simpa [eventList, hp] using ExecCase.emits (i := .display) (s := s) (by simp)
    · simpa [eventList, hp] using ExecCase.emits (i := .display) (s := s) (by simp)
    all_goals exact .raised _ (by simp) (by simp) (by simp [eventList, hp])
  | hpm =>
    simp only [exec, execHpm] at h
    split at h <;> rename_i hp <;> cases h
    · exact .idled (by simp) (by simp [eventList, hp])
    · simpa [eventList, hp] using ExecCase.switches (i := .hpm) (s := s) .highPower (by simp) (by simp [hp, PowerEdge]) (by simp)
    all_goals exact .raised _ (by simp) (by simp) (by simp [eventList, hp])
  | lpm =>
    simp only [exec, execLpm] at h
    split at h <;> rename_i hp <;> cases h
    · exact .idled (by simp) (by simp [eventList, hp])
    · simpa [eventList, hp] using ExecCase.switches (i := .lpm) (s := s) .lowPower (by simp) (by simp [hp, PowerEdge]) (by simp)
    all_goals exact .raised _ (by simp) (by simp) (by simp [eventList, hp])
  | sleep eb =>
    simp only [exec, execSleep, sleepIn, wake] at h
    by_cases he : enabled eb = true
    · rw [if_pos he] at h
      split at h <;> rename_i hp <;> cases h
      · exact .idled (by simp) (by simp [eventList, he, hp])
      · simpa [eventList, he, hp] using
          ExecCase.switches (i := .sleep eb) (s := s) .sleeping (by simp) (by simp [hp, PowerEdge]) (by simp)
      · simpa [eventList, he, hp] using
          ExecCase.switches (i := .sleep eb) (s := s) .sleeping (by simp) (by simp [hp, PowerEdge]) (by simp)
      all_goals exact .raised _ (by simp) (by simp) (by simp [eventList, he, hp])
    · rw [if_neg he] at h
      split at h <;> rename_i hp <;> cases h
      · simpa [eventList, he, hp] using
          ExecCase.switches (i := .sleep eb) (s := s) .highPower (by simp) (by simp [hp, PowerEdge]) (by simp)
      · exact .idled (by simp) (by simp [eventList, he, hp])
      · exact .idled (by simp) (by simp [eventList, he, hp])
      all_goals exact .raised _ (by simp) (by simp) (by simp [eventList, he, hp])
  | invert eb => cases h; exact .emits (i := .invert eb) (by simp)
  | dispon eb => cases h; exact .emits (i := .dispon eb) (by simp)
  | line x0 y0 x1 y1 cb => exact drawPoints_cases rfl rfl h
  | rect x0 y0 x1 y1 cb => exact drawPoints_cases rfl rfl h
  | fillRect x0 y0 x1 y1 cb => exact drawPoints_cases rfl rfl h
  | circle cx cy r cb => exact drawPoints_cases rfl rfl h
  | fillCircle cx cy r cb => exact drawPoints_cases rfl rfl h
  | triangle x0 y0 x1 y1 x2 y2 cb => exact drawPoints_cases rfl rfl h
  | fillTriangle x0 y0 x1 y1 x2 y2 cb => exact drawPoints_cases rfl rfl h
  | drawChar x y ch cb => exact drawPlots_cases rfl rfl h
  | drawString x y cb chars => exact drawPlots_cases rfl rfl h
  | stringWidth chars => cases h; exact .gaveResult _ (.inr ⟨_, rfl⟩)

end Sys2Proof.Machine
end

