-- ==== Sys2Proof/Laws/PerInstr.lean ====
section
/-!
SUPPORT. Laws/PerInstr.lean: for each operation, as syntax: its packet fits the packet buffer and has the length of its opcode's
format (30_encoding.md rules R96, R105, R107; 00_scope.md rule R15).
-/

namespace Sys2Proof.Laws.Encoded

/-- The packet of a well-formed operation has a row of R105 for its opcode, the length that R107 gives, and a place in PBUF. -/
def Statement (i : Instr) : Prop :=
  i.wellFormed = true →
    (encode i).length ≤ Config.pktMax ∧
    ∃ row, opRow (byteAt (encode i) 0) = some row ∧ row.format.length (encode i) = some (encode i).length

/-- An operation of a format without characters: its row is found by its opcode and its length is the format's. -/
theorem of_row {i : Instr} (row : OpRow) (hrow : opRow (byteAt (encode i) 0) = some row)
    (hlen : (encode i).length ≤ Config.pktMax) (hfmt : row.format.length (encode i) = some (encode i).length) :
    Statement i :=
  fun _ => ⟨hlen, row, hrow, hfmt⟩

theorem nop : Statement .nop :=
  of_row _ rfl (by simp [encode, Config.pktMax]) rfl

theorem clearErr : Statement .clearErr :=
  of_row _ rfl (by simp [encode, Config.pktMax]) rfl

theorem plotRaw (x : Half) (y : Half) (cb : Byte) : Statement (.plotRaw x y cb) :=
  of_row _ rfl (by simp [encode, halfBytes, Config.pktMax]) rfl

theorem drawPixel (x : Half) (y : Half) (cb : Byte) : Statement (.drawPixel x y cb) :=
  of_row _ rfl (by simp [encode, halfBytes, Config.pktMax]) rfl

theorem drawPixelGray (x : Half) (y : Half) (g : Byte) : Statement (.drawPixelGray x y g) :=
  of_row _ rfl (by simp [encode, halfBytes, Config.pktMax]) rfl

theorem readPixel (x : Half) (y : Half) : Statement (.readPixel x y) :=
  of_row _ rfl (by simp [encode, halfBytes, Config.pktMax]) rfl

theorem fill (a : Byte) : Statement (.fill a) :=
  of_row _ rfl (by simp [encode, Config.pktMax]) rfl

theorem setRot (a : Byte) : Statement (.setRot a) :=
  of_row _ rfl (by simp [encode, Config.pktMax]) rfl

theorem init : Statement .init :=
  of_row _ rfl (by simp [encode, Config.pktMax]) rfl

theorem display : Statement .display :=
  of_row _ rfl (by simp [encode, Config.pktMax]) rfl

theorem hpm : Statement .hpm :=
  of_row _ rfl (by simp [encode, Config.pktMax]) rfl

theorem lpm : Statement .lpm :=
  of_row _ rfl (by simp [encode, Config.pktMax]) rfl

theorem sleep (eb : Byte) : Statement (.sleep eb) :=
  of_row _ rfl (by simp [encode, Config.pktMax]) rfl

theorem invert (eb : Byte) : Statement (.invert eb) :=
  of_row _ rfl (by simp [encode, Config.pktMax]) rfl

theorem dispon (eb : Byte) : Statement (.dispon eb) :=
  of_row _ rfl (by simp [encode, Config.pktMax]) rfl

theorem line (x0 : Half) (y0 : Half) (x1 : Half) (y1 : Half) (cb : Byte) : Statement (.line x0 y0 x1 y1 cb) :=
  of_row _ rfl (by simp [encode, halfBytes, Config.pktMax]) rfl

theorem rect (x0 : Half) (y0 : Half) (x1 : Half) (y1 : Half) (cb : Byte) : Statement (.rect x0 y0 x1 y1 cb) :=
  of_row _ rfl (by simp [encode, halfBytes, Config.pktMax]) rfl

theorem fillRect (x0 : Half) (y0 : Half) (x1 : Half) (y1 : Half) (cb : Byte) : Statement (.fillRect x0 y0 x1 y1 cb) :=
  of_row _ rfl (by simp [encode, halfBytes, Config.pktMax]) rfl

theorem circle (cx : Half) (cy : Half) (r : Half) (cb : Byte) : Statement (.circle cx cy r cb) :=
  of_row _ rfl (by simp [encode, halfBytes, Config.pktMax]) rfl

theorem fillCircle (cx : Half) (cy : Half) (r : Half) (cb : Byte) : Statement (.fillCircle cx cy r cb) :=
  of_row _ rfl (by simp [encode, halfBytes, Config.pktMax]) rfl

theorem triangle (x0 : Half) (y0 : Half) (x1 : Half) (y1 : Half) (x2 : Half) (y2 : Half) (cb : Byte) : Statement (.triangle x0 y0 x1 y1 x2 y2 cb) :=
  of_row _ rfl (by simp [encode, halfBytes, Config.pktMax]) rfl

theorem fillTriangle (x0 : Half) (y0 : Half) (x1 : Half) (y1 : Half) (x2 : Half) (y2 : Half) (cb : Byte) : Statement (.fillTriangle x0 y0 x1 y1 x2 y2 cb) :=
  of_row _ rfl (by simp [encode, halfBytes, Config.pktMax]) rfl

theorem drawChar (x : Half) (y : Half) (ch : Byte) (cb : Byte) : Statement (.drawChar x y ch cb) :=
  of_row _ rfl (by simp [encode, halfBytes, Config.pktMax]) rfl

theorem drawString (x : Half) (y : Half) (cb : Byte) (chars : List Byte) : Statement (.drawString x y cb chars) :=
  fun h => by
    have hn : chars.length ≤ 255 := by simpa [Instr.wellFormed] using h
    have hm : chars.length % 256 = chars.length := by omega
    refine ⟨?_, _, rfl, ?_⟩
    · simp [encode, halfBytes, Config.pktMax]; omega
    · simp [Format.length, encode, halfBytes, byteAt, hm]; omega

theorem stringWidth (chars : List Byte) : Statement (.stringWidth chars) :=
  fun h => by
    have hn : chars.length ≤ 255 := by simpa [Instr.wellFormed] using h
    have hm : chars.length % 256 = chars.length := by omega
    refine ⟨?_, _, rfl, ?_⟩
    · simp [encode, Config.pktMax]; omega
    · simp [Format.length, encode, byteAt, hm]; omega

end Sys2Proof.Laws.Encoded
end

