-- ==== Sys2Proof/Laws/Step.lean ====
section
/-!
SUPPORT. Laws/Step.lean: what one step of the machine can do, said once: the sequencer's turn (`turn_cases`), a host access
(`hostAccess_cases`), and the step over them (`step_cases`).
-/

namespace Sys2Proof.Machine

/-- A sequencer's turn that answers next leaves an idle block alone, ends a packet that does not decode, or takes a step of the
operation (R106, R303, R305). -/
theorem turn_cases {s t : State} (h : sequencerTurn s = .next t) :
    (s.seq = .idle ∧ t = s) ∨
    (∃ p k f c, s.seq = .exec p k f ∧ decode s.build.variant p.bytes p.povf = .error c ∧ t = s.raise c) ∨
    (∃ i, Executing s i ∧ exec i s = .next t) := by
  unfold sequencerTurn at h
  split at h
  · rename_i hs
    cases h
    exact .inl ⟨hs, rfl⟩
  · rename_i p k f hs
    split at h
    · rename_i c hd
      cases h
      exact .inr (.inl ⟨p, k, f, c, hs, hd, rfl⟩)
    · rename_i i hd
      exact .inr (.inr ⟨i, ⟨p, k, f, hs, hd⟩, h⟩)

/-- What a host access that answers next can have done (R64, R90, R91, R306). -/
inductive HostCase (s : State) : State → Prop
  | observed (v : Word) : HostCase s { s with reads := s.reads ++ [v] }
  | ignored : HostCase s s
  | overrun (hb : s.seq ≠ .idle) : HostCase s (s.recordErr .overrun)
  | appended (hs : s.seq = .idle) (hl : s.plen < Config.pktMax) (b : Byte) : HostCase s { s with pbuf := s.pbuf ++ [b] }
  | overflowed (hs : s.seq = .idle) (hl : Config.pktMax ≤ s.plen) : HostCase s { s with povf := true }
  | started (hs : s.seq = .idle) : HostCase s (State.accept { s with pbuf := [], povf := false } ⟨s.pbuf, s.povf⟩)

theorem busy_iff (s : State) : s.busy = true ↔ s.seq ≠ .idle := by simp [State.busy]

theorem cmdWrite_cases (s : State) (v : Word) : HostCase s (cmdWrite s v) := by
  unfold cmdWrite
  by_cases hb : s.busy = true
  · rw [if_pos hb]; exact .overrun ((busy_iff s).1 hb)
  · have hs : s.seq = .idle := by simpa [busy_iff] using hb
    rw [if_neg hb]
    split
    · exact .appended hs ‹_› _
    · exact .overflowed hs (by omega)

theorem doorbellWrite_cases (s : State) : HostCase s (doorbellWrite s) := by
  unfold doorbellWrite
  by_cases hb : s.busy = true
  · rw [if_pos hb]; exact .overrun ((busy_iff s).1 hb)
  · rw [if_neg hb]; exact .started (by simpa [busy_iff] using hb)

/-- If a host access answers next, it did one of these things. -/
theorem hostAccess_cases {s t : State} {a : HostAccess} (h : hostAccess s a = .next t) : HostCase s t := by
  cases a with
  | read offset width =>
    simp only [hostAccess, hostRead] at h
    split at h
    · split at h
      · cases h; exact .observed _
      · cases h
    · cases h
  | write offset width v =>
    simp only [hostAccess, hostWrite] at h
    split at h
    · split at h
      · cases h; exact .ignored
      · split at h
        · cases h; exact .ignored
        · split at h
          · cases h; exact cmdWrite_cases s v
          · split at h
            · cases h; exact doorbellWrite_cases s
            · cases h
    · cases h

/-- If the machine answers next, the sequencer had its turn, or the host made an access, or a block reset came; the input taken, if
any, is off the schedule (log 4). -/
theorem step_cases {s t : State} (h : step s = .next t) :
    (s.inputs = [] ∧ sequencerTurn s = .next t) ∨
    (∃ rest, s.inputs = .turn :: rest ∧ sequencerTurn { s with inputs := rest } = .next t) ∨
    (∃ a rest, s.inputs = .host a :: rest ∧ HostCase { s with inputs := rest } t) ∨
    (∃ rest, s.inputs = .blockReset :: rest ∧ t = State.blockReset { s with inputs := rest }) := by
  unfold step advance at h
  split at h
  · exact .inl ⟨‹_›, h⟩
  · rename_i x rest hin
    cases x with
    | turn => exact .inr (.inl ⟨rest, hin, h⟩)
    | host a => exact .inr (.inr (.inl ⟨a, rest, hin, hostAccess_cases h⟩))
    | blockReset => cases h; exact .inr (.inr (.inr ⟨rest, hin, rfl⟩))

end Sys2Proof.Machine
end

