-- ==== Sys2Proof/Tests/Slice0.lean ====
section
/-!
SUPPORT. Tests/Slice0.lean: the model's own tests, each expected result from the spec (95_test_vectors.md, or a rule named in the
comment), and a witness for the hypotheses of every statement that has some.
-/

namespace Sys2Proof.Tests

open Sys2Proof.Machine

/-! ### Builds and states (95 section 0) -/

/-- Test font TF. -/
def fontTF : Font where
  first := 0x30
  last := 0x31
  bpc := 5
  width := 3
  height := 5
  layout := .horizontal
  spacing := 1
  bg := .transparent
  rom := [0xE0, 0xA0, 0xA0, 0xA0, 0xE0, 0x40, 0xC0, 0x40, 0x40, 0xE0]

/-- Test font TFV. -/
def fontTFV : Font :=
  { fontTF with first := 0x31, bpc := 3, layout := .vertical, rom := [0x12, 0x1F, 0x10] }

/-- The test parameter set in a variant; the GRAY2 panel is 8 × 8. -/
def testBuild (v : Variant) : Build where
  variant := v
  grayDataW := 4
  grayDataH := 4
  font := fontTF
  initTable := [⟨0xD1, [0x01], 0⟩, ⟨0x11, [], 120⟩, ⟨0x29, [], 0⟩]
  colWindow := [0x00, 0x29]
  rowWindow := [0x00, 0xBF]
  cmds := {}
  tSlpin := 5
  tWake := 6
  tLpmExit := 7
  blockBase := 0x1000

/-- The test block after reset. -/
def blank (v : Variant) : State := State.resetOf (testBuild v)

/-- The block executing packet `p`, with `k` events done, in power state `w`. -/
def executing (v : Variant) (w : Power) (p : List Byte) (k : Nat) (f : Option TxEvent) : State :=
  { blank v with pwr := w, seq := .exec ⟨p, false⟩ k f }

/-- The next state, if there is one. -/
def nextOf (o : Host.Outcome State Fault Refusal) : Option State :=
  match o with
  | .next t => some t
  | .fault _ => none
  | .refused _ => none

def fbAfter (i : Instr) (s : State) : Option Memory := (nextOf (exec i s)).map State.fb

def resultAfter (i : Instr) (s : State) : Option Word := (nextOf (exec i s)).map State.result

def statusAfter (i : Instr) (s : State) : Option Word := (nextOf (exec i s)).map statusWord

/-- What a step of `i` put in flight, with CS_N, DC and RST_N. -/
def issued (i : Instr) (s : State) : Option (Seq × Bool × Bool × Bool) :=
  (nextOf (exec i s)).map fun t => (t.seq, t.csN, t.dc, t.rstN)

/-! ### Well-formedness (R100, R104) -/

/-- R100: 256 characters do not fit the length byte, 255 do. -/
theorem test_drawString_too_long : (Instr.drawString 0 0 1 (List.replicate 256 0x30)).wellFormed = false := by
  simp only [Instr.wellFormed, List.length_replicate]; decide
theorem test_drawString_longest : (Instr.drawString 0 0 1 (List.replicate 255 0x30)).wellFormed = true := by
  simp only [Instr.wellFormed, List.length_replicate]; decide
theorem test_stringWidth_too_long : (Instr.stringWidth (List.replicate 256 0x30)).wellFormed = false := by
  simp only [Instr.wellFormed, List.length_replicate]; decide
/-- R104: DRAW_PIXEL_GRAY exists in GRAY2 only. -/
theorem test_drawPixelGray_not_in_mono1 : (Instr.drawPixelGray 0 0 1).existsIn .mono1 = false := by decide

/-! ### INIT_TABLE's shape (R176) -/

/-- Groups with one entry each, but groups 9, 16 and 17 with `n`; the bytes that R176 leaves open are test values, not the panel's. -/
def testGroups (n sleepOutDelay : Nat) : InitGroups where
  g1 := [⟨0xD6, [0x17], 0⟩]
  g2 := [⟨0xD1, [0x01], 0⟩]
  g3 := [⟨0xC0, [], 0⟩]
  g4 := [⟨0xD8, [], 0⟩]
  g5 := [⟨0xB2, [], 0⟩]
  g6 := [⟨0xB3, [], 0⟩]
  g7 := [⟨0xB8, [], 0⟩]
  g8 := [⟨0xB0, [], 0⟩]
  g9 := List.replicate n ⟨0x11, [], sleepOutDelay⟩
  g10 := [⟨0xC9, [], 0⟩]
  g11 := [⟨0x36, [], 0⟩]
  g12 := [⟨0x3A, [], 0⟩]
  g13 := [⟨0xB9, [], 0⟩]
  g15 := [⟨0xD0, [], 0⟩]
  g16 := List.replicate n ⟨0x29, [], 0⟩
  g17 := List.replicate n ⟨0x20, [], 0⟩
  g18 := [⟨0xBB, [], 0⟩]

/-- R176: a group has one or more entries, so one and two both conform and none does not; the sleep-out's delay is at least 120. -/
theorem test_initGroups_counts : (testGroups 1 120).Conforming {} ∧ (testGroups 2 120).Conforming {} ∧
    ¬ (testGroups 0 120).Conforming {} ∧ ¬ (testGroups 2 119).Conforming {} := by decide

/-- A conforming build with two entries in each of groups 9, 16 and 17. -/
theorem test_build_conforming :
    Build.Conforming { testBuild .mono1 with initTable := (testGroups 2 120).table {} [0x00, 0x29] [0x00, 0xBF] } where
  grayW := by decide
  grayH := by decide
  font := by decide
  initTable := ⟨testGroups 2 120, by decide, rfl⟩
  blockBase := by decide

/-! ### Decoding: every operation's packet, written out from R96 and R105 -/

theorem test_decode_nop : decode .mono1 [0x00] false = .ok .nop := by rfl
theorem test_decode_clearErr : decode .mono1 [0x01] false = .ok .clearErr := by rfl
/-- 95 section 2.2. -/
theorem test_decode_plotRaw : decode .mono1 [0x10, 0x05, 0x00, 0x03, 0x00, 0x80] false = .ok (.plotRaw 5 3 0x80) := by rfl
theorem test_decode_drawPixel :
    decode .mono1 [0x11, 0x34, 0x12, 0xFE, 0xFF, 0x01] false = .ok (.drawPixel 0x1234 (-2) 1) := by rfl
/-- 95 section 1.1. -/
theorem test_decode_drawPixelGray :
    decode .gray2 [0x12, 0x04, 0x00, 0x04, 0x00, 0x02] false = .ok (.drawPixelGray 4 4 2) := by rfl
/-- 95 section 2.2. -/
theorem test_decode_readPixel : decode .mono1 [0x13, 0x00, 0x00, 0xA8, 0x00] false = .ok (.readPixel 0 168) := by rfl
theorem test_decode_fill : decode .mono1 [0x14, 0xFF] false = .ok (.fill 0xFF) := by rfl
theorem test_decode_setRot : decode .mono1 [0x15, 0x07] false = .ok (.setRot 7) := by rfl
theorem test_decode_init : decode .mono1 [0x20] false = .ok .init := by rfl
theorem test_decode_display : decode .mono1 [0x21] false = .ok .display := by rfl
theorem test_decode_hpm : decode .mono1 [0x22] false = .ok .hpm := by rfl
theorem test_decode_lpm : decode .mono1 [0x23] false = .ok .lpm := by rfl
theorem test_decode_sleep : decode .mono1 [0x24, 0x01] false = .ok (.sleep 1) := by rfl
theorem test_decode_invert : decode .mono1 [0x25, 0x00] false = .ok (.invert 0) := by rfl
theorem test_decode_dispon : decode .mono1 [0x26, 0x02] false = .ok (.dispon 2) := by rfl
/-- 95 section 2.3. -/
theorem test_decode_line :
    decode .mono1 [0x30, 0xFF, 0xFF, 0x02, 0x00, 0x2C, 0x01, 0x04, 0x00, 0x01] false = .ok (.line (-1) 2 300 4 1) := by rfl
theorem test_decode_rect :
    decode .mono1 [0x31, 0x01, 0x00, 0x02, 0x00, 0x03, 0x00, 0x04, 0x00, 0x05] false = .ok (.rect 1 2 3 4 5) := by rfl
theorem test_decode_fillRect :
    decode .mono1 [0x32, 0x01, 0x00, 0x02, 0x00, 0x03, 0x00, 0x04, 0x00, 0x05] false = .ok (.fillRect 1 2 3 4 5) := by rfl
theorem test_decode_circle :
    decode .mono1 [0x33, 0x14, 0x00, 0x1E, 0x00, 0x05, 0x00, 0x00] false = .ok (.circle 20 30 5 0) := by rfl
/-- 95 section 2.3: the extremes of s16 and u16. -/
theorem test_decode_fillCircle :
    decode .mono1 [0x34, 0x00, 0x80, 0xFF, 0x7F, 0xFF, 0xFF, 0x01] false = .ok (.fillCircle (-32768) 32767 65535 1) := by rfl
theorem test_decode_triangle :
    decode .mono1 [0x35, 0x00, 0x00, 0x00, 0x00, 0x04, 0x00, 0x00, 0x00, 0x00, 0x00, 0x04, 0x00, 0x01] false =
      .ok (.triangle 0 0 4 0 0 4 1) := by rfl
theorem test_decode_fillTriangle :
    decode .mono1 [0x36, 0x01, 0x00, 0x02, 0x00, 0x03, 0x00, 0x04, 0x00, 0x05, 0x00, 0x06, 0x00, 0x07] false =
      .ok (.fillTriangle 1 2 3 4 5 6 7) := by rfl
/-- 95 section 2.3. -/
theorem test_decode_drawChar :
    decode .mono1 [0x40, 0x0A, 0x00, 0x14, 0x00, 0x31, 0x01] false = .ok (.drawChar 10 20 0x31 1) := by rfl
theorem test_decode_drawString :
    decode .mono1 [0x41, 0x0A, 0x00, 0x14, 0x00, 0x01, 0x02, 0x48, 0x69] false =
      .ok (.drawString 10 20 1 [0x48, 0x69]) := by rfl
theorem test_decode_stringWidth : decode .mono1 [0x42, 0x03, 0x31, 0x0A, 0x30] false = .ok (.stringWidth [0x31, 0x0A, 0x30]) := by
  rfl

/-- 95 section 2.3: the decode's errors. -/
theorem test_decode_empty : decode .mono1 [] false = .error .badLength := by rfl
theorem test_decode_reserved : decode .mono1 [0xFF] false = .error .badOpcode := by rfl
theorem test_decode_short : decode .mono1 [0x11, 0x00, 0x00, 0x00, 0x00] false = .error .badLength := by rfl
theorem test_decode_trailing : decode .mono1 [0x00, 0x00] false = .error .badLength := by rfl
theorem test_decode_missing_char : decode .mono1 [0x42, 0x02, 0x30] false = .error .badLength := by rfl
theorem test_decode_no_count : decode .mono1 [0x41, 0x00, 0x00, 0x00, 0x00, 0x01] false = .error .badLength := by rfl
theorem test_decode_unsupported_before_length :
    decode .mono1 [0x12, 0x00, 0x00, 0x00, 0x00] false = .error .unsupported := by rfl
theorem test_decode_overflowed : decode .mono1 [0x00] true = .error .badLength := by rfl

/-- 95 section 2.3: CLEAR and SLEEPIN. -/
theorem test_pseudo : encode (expandPseudo .clear) = [0x14, 0x00] ∧ encode (expandPseudo .sleepIn) = [0x24, 0x01] := by decide

/-- 30_encoding.md R105: the table's word for LINE with every operand byte 0. -/
theorem test_decodeTableWord_line : decodeTableWord 80 0x30 = some (.line 0 0 0 0 0) := by rfl

/-! ### One step of each operation -/

/-- 95 section 2.3 (a NOP commits) and R190. -/
theorem test_nop : statusAfter .nop (executing .mono1 .highPower [0x00] 0 none) = some 0x0004 := by decide
theorem test_clearErr :
    statusAfter .clearErr { blank .mono1 with err := true, errCode := .badOpcode } = some 0x0000 := by decide
/-- 95 section 2.2. -/
theorem test_plotRaw : fbAfter (.plotRaw 5 3 0x80) (blank .mono1) = some [(43, 0x10)] := by decide
theorem test_plotRaw_ignores_rot : fbAfter (.plotRaw 0 0 1) { blank .mono1 with rot := 1 } = some [(0, 0x80)] := by decide
/-- 95 section 1.1, and section 2.1's corner. -/
theorem test_drawPixel_rot1 : fbAfter (.drawPixel 0 0 1) { blank .mono1 with rot := 1 } = some [(41, 0x02)] := by decide
theorem test_drawPixel_dropped : fbAfter (.drawPixel 167 383 1) { blank .mono1 with rot := 1 } = some [] := by decide
/-- 95 section 1.1 and section 2.2. -/
theorem test_drawPixelGray : fbAfter (.drawPixelGray 4 4 2) (blank .gray2) = some [(10, 0x80)] := by decide
theorem test_drawPixelGray_bad : statusAfter (.drawPixelGray 1 1 4) (blank .gray2) = some 0x1540 := by decide
/-- 95 section 3, program 2. -/
theorem test_readPixel : resultAfter (.readPixel 0 0) { blank .mono1 with rot := 1, fb := [(41, 0x02)] } = some 1 := by decide
theorem test_readPixel_outside : resultAfter (.readPixel 0 168) { blank .mono1 with rot := 1 } = some 0xFFFFFFFF := by decide
/-- R147; 95 section 2.2 (GRAY2, FILL 0xAA, then pixel (1, 1) reads 0 and (1, 0) reads 3). -/
theorem test_fill : (fbAfter (.fill 0xAA) (blank .gray2)).map (fun m => (m.length, m.read 15)) = some (16, 0xAA) := by decide
theorem test_fill_reads_back :
    resultAfter (.readPixel 1 0) { blank .gray2 with fb := [(0, 0xAA)] } = some 3 ∧
    resultAfter (.readPixel 1 1) { blank .gray2 with fb := [(0, 0xAA)] } = some 0 := by decide
/-- 95 section 2.2. -/
theorem test_setRot : statusAfter (.setRot 7) (blank .mono1) = some 0x0030 := by decide
/-- 95 section 2.4: INIT's event list, and its first step's start. -/
theorem test_init_events : eventList .init (blank .mono1) =
    [.txSetup, .rst false, .delay 10, .rst true, .delay 10, .cmd 0xD1, .data 0x01, .cmd 0x11, .delay 120, .cmd 0x29] := by
  decide
theorem test_init_second_event :
    issued .init (executing .mono1 .initializing [0x20] 1 none) =
      some (.exec ⟨[0x20], false⟩ 1 (some (.rst false)), true, false, false) := by decide
/-- 95 section 2.4: DISPLAY's first events, and BAD_STATE from reset. -/
theorem test_display_events : (eventList .display { blank .gray2 with pwr := .highPower, fb := [(1, 0x55)] }) =
    [.cmd 0x2A, .data 0x00, .data 0x29, .cmd 0x2B, .data 0x00, .data 0xBF, .cmd 0x2C,
     .burst [0, 0x55, 0, 0, 0, 0, 0, 0, 0, 0, 0, 0, 0, 0, 0, 0]] := by decide
theorem test_display_bad_state : statusAfter .display (executing .mono1 .uninitialized [0x21] 0 none) = some 0x0440 := by decide
/-- 95 section 2.4. -/
theorem test_hpm : issued .hpm (executing .mono1 .lowPower [0x22] 0 none) =
    some (.exec ⟨[0x22], false⟩ 0 (some (.cmd 0x38)), false, false, true) := by decide
theorem test_hpm_redundant : statusAfter .hpm (executing .mono1 .highPower [0x22] 0 none) = some 0x0004 := by decide
theorem test_lpm : issued .lpm (executing .mono1 .highPower [0x23] 0 none) =
    some (.exec ⟨[0x23], false⟩ 0 (some (.cmd 0x39)), false, false, true) := by decide
theorem test_lpm_commit : statusAfter .lpm (executing .mono1 .highPower [0x23] 1 none) = some 0x0006 := by decide
/-- 95 section 2.4 (test values 5 and 7 for T_SLPIN and T_LPM_EXIT). -/
theorem test_sleep_low_events : eventList (.sleep 1) (executing .mono1 .lowPower [0x24, 0x01] 0 none) =
    [.cmd 0x38, .delay 7, .cmd 0x10, .delay 5] := by decide
theorem test_sleep_wake_commit : statusAfter (.sleep 0) (executing .mono1 .sleeping [0x24, 0x00] 2 none) = some 0x0004 := by decide
/-- 95 section 2.4. -/
theorem test_invert : issued (.invert 1) (executing .mono1 .uninitialized [0x25, 0x01] 0 none) =
    some (.exec ⟨[0x25, 0x01], false⟩ 0 (some (.cmd 0x21)), false, false, true) := by decide
theorem test_dispon : issued (.dispon 0) (executing .mono1 .sleeping [0x26, 0x00] 0 none) =
    some (.exec ⟨[0x26, 0x00], false⟩ 0 (some (.cmd 0x28)), false, false, true) := by decide
/-- 95 section 2.5. -/
theorem test_line : fbAfter (.line 0 1 7 1 1) (blank .mono1) = some [(0, 0x55), (1, 0x55)] := by decide
theorem test_line_points : linePoints (0, 0) (5, -2) = [(0, 0), (1, 0), (2, -1), (3, -1), (4, -2), (5, -2)] := by decide
/-- 95 section 2.5: a one-pixel rectangle; R132 puts (2, 2) in bit 3 of byte 42. -/
theorem test_rect : fbAfter (.rect 2 2 2 2 1) (blank .mono1) = some [(42, 0x08)] := by decide
theorem test_rect_edges : (rectPoints (1, 1) (4, 3)).length = 14 ∧ (rectPoints (1, 1) (4, 3)).dedup.length = 10 := by decide
/-- 95 section 2.5: the 12 points, corners in the other order. -/
theorem test_fillRect : (fillRectPoints (4, 3) (1, 1)).length = 12 := by decide
/-- R226, R131, R132: the box (0, 0) to (3, 1) is byte 0. -/
theorem test_fillRect_byte : fbAfter (.fillRect 3 1 0 0 1) (blank .mono1) = some [(0, 0xFF)] := by decide
/-- 95 section 2.5: at the origin CIRCLE of radius 2 keeps (0,2), (1,2), (2,1), (2,0): bits 3 and 2 of byte 0, bits 7 and 5 of
byte 42 (R131, R132). -/
theorem test_circle : fbAfter (.circle 0 0 2 1) (blank .mono1) = some [(0, 0x0C), (42, 0xA0)] := by decide
theorem test_circle_steps : circleSteps 4 = [(0, 4), (1, 4), (2, 3), (3, 3)] := by decide
/-- 95 section 2.5. -/
theorem test_fillCircle : (fillCirclePoints (0, 0) 2).dedup.length = 21 := by decide
theorem test_fillCircle_point : fbAfter (.fillCircle 0 0 0 1) (blank .mono1) = some [(0, 0x80)] := by decide
/-- 95 section 2.5. -/
theorem test_triangle : (trianglePoints (0, 0) (4, 0) (0, 4)).dedup.length = 12 := by decide
theorem test_triangle_point : fbAfter (.triangle 1 1 1 1 1 1 1) (blank .mono1) = some [(0, 0x10)] := by decide
/-- 95 section 2.5: 18 points, of which the scan alone gives 13. -/
theorem test_fillTriangle : (fillTrianglePoints (2, 0) (0, 4) (5, 5)).dedup.length = 18 ∧
    (scanFill [(2, 0), (0, 4), (5, 5)]).length = 13 := by decide
/-- 95 section 2.5: the collinear triangle is 7 points of row 0. -/
theorem test_fillTriangle_collinear :
    fbAfter (.fillTriangle 0 0 3 0 6 0 1) (blank .mono1) = some [(0, 0xAA), (1, 0xA8)] := by decide
/-- 95 section 2.6: the eight points of the "1" at (10, 20), in the bytes and bits of R131 and R132; the same in the column-major
font. -/
theorem test_drawChar :
    fbAfter (.drawChar 10 20 0x31 1) (blank .mono1) = some [(422, 0x07), (464, 0x03), (506, 0x0A), (507, 0x80)]  ∧
    fbAfter (.drawChar 10 20 0x31 1) { blank .mono1 with build := { testBuild .mono1 with font := fontTFV } } =
      some [(422, 0x07), (464, 0x03), (506, 0x0A), (507, 0x80)] := by decide
/-- 95 section 2.6: a character out of range plots nothing. -/
theorem test_drawChar_blank : fbAfter (.drawChar 10 20 0x41 1) (blank .mono1) = some [] := by decide
theorem test_drawString : fbAfter (.drawString 0 0 1 [0x31, 0x30]) (blank .mono1) =
    some [(0, 0x70), (1, 0xEC), (42, 0x30), (43, 0xCC), (84, 0xA8), (85, 0xA8)] := by decide
/-- 95 section 2.6. -/
theorem test_stringWidth : resultAfter (.stringWidth [0x31, 0x0A, 0x30]) (blank .mono1) = some 6 := by decide

/-! ### Witnesses: for each statement with hypotheses, states and operands that meet them -/

theorem test_witness_DecodeOfEncode :
    ((Instr.drawPixelGray 0xFFFF 0x8000 0xFF).wellFormed = true ∧ (Instr.drawPixelGray 0xFFFF 0x8000 0xFF).existsIn .gray2 = true) ∧
    ((Instr.stringWidth [0x31]).wellFormed = true ∧ (Instr.stringWidth [0x31]).existsIn .mono1 = true) := by decide

theorem test_witness_EncodeOfDecode : decode .mono1 [0x42, 0x01, 0x31] false = .ok (.stringWidth [0x31]) := by rfl

/-- Both ends of each reserved range of R105. -/
theorem test_witness_ReservedOpcodeOnlyRecords :
    (∀ op ∈ ([0x02, 0x0F, 0x16, 0x1F, 0x27, 0x2F, 0x37, 0x3F, 0x43, 0xFF] : List Byte), ReservedOpcode op) ∧
    (executing .mono1 .uninitialized [0x02, 0x99] 0 none).inputs = [] ∧
    (executing .mono1 .uninitialized [0x02, 0x99] 0 none).seq = .exec ⟨[0x02, 0x99], false⟩ 0 none := by
  simp [ReservedOpcode, executing, blank, State.resetOf]

/-- Each clause: a reserved opcode; the GRAY2 opcode in MONO1; the first and the last opcode of the map, with a right length, a wrong
length and an overflow. -/
theorem test_witness_DecodeChecksInOrder :
    ReservedOpcode 0x43 ∧ ¬ ReservedOpcode 0x00 ∧ ¬ ReservedOpcode 0x42 ∧ ¬ ReservedOpcode 0x12 ∧
    ((opRow 0x00).map fun r => r.format.length [0x00]) = some (some 1) ∧
    ((opRow 0x42).map fun r => r.format.length [0x42, 0x00]) = some (some 2) ∧
    ((opRow 0x42).map fun r => r.format.length [0x42]) = some none ∧
    ((opRow 0x12).map fun r => r.format.length [0x12]) = some (some 6) := by
  refine ⟨?_, ?_, ?_, ?_, rfl, rfl, rfl, rfl⟩ <;> simp [ReservedOpcode]

theorem test_witness_StepRunsDecodedOperation :
    (Executing (executing .mono1 .highPower [0x23] 0 none) .lpm ∧ (executing .mono1 .highPower [0x23] 0 none).inputs = []) ∧
    (∃ s : State, Executing s .lpm ∧ s.inputs = [.turn]) :=
  ⟨⟨⟨⟨[0x23], false⟩, 0, none, rfl, rfl⟩, rfl⟩,
   { executing .mono1 .highPower [0x23] 0 none with inputs := [.turn] }, ⟨⟨[0x23], false⟩, 0, none, rfl, rfl⟩, rfl⟩

/-- An INIT packet and a packet that is not. -/
theorem test_witness_SubmittedPacketStarts : ∀ p ∈ ([[0x20], [0x14, 0x00]] : List (List Byte)),
    let s : State := { blank .mono1 with inputs := submission p ++ [.turn] }
    s.seq = .idle ∧ s.pbuf = [] ∧ s.povf = false ∧ p.length ≤ Config.pktMax ∧ s.inputs = submission p ++ [.turn] := by decide

/-- A buffer with room for one byte, a full one, and a busy block. -/
theorem test_witness_CmdWriteAppends : ∀ n ∈ [261, 262],
    ({ blank .mono1 with pbuf := List.replicate n 0 }).seq = .idle ∧
    ({ blank .mono1 with pbuf := List.replicate n 0 }).pbuf.length = n ∧
    (executing .mono1 .highPower [0x00] 0 none).seq ≠ .idle := by simp [blank, executing, State.resetOf]

theorem test_witness_DoorbellTakesThePacket :
    (blank .mono1).seq = .idle ∧ decode .mono1 [0x20] false = .ok .init ∧ decode .mono1 [] false ≠ .ok .init := by
  refine ⟨rfl, rfl, by decide⟩

theorem test_witness_WriteWhileBusyOverruns :
    (executing .mono1 .initializing [0x20] 0 none).seq ≠ .idle ∧ (executing .mono1 .initializing [0x20] 0 none).err = false := by
  decide

/-- The last legal offset and width, and accesses just outside. -/
theorem test_witness_AccessOutsideContractRefused :
    ¬ IllegalAccess (.write 0x0C 4 0) ∧ ¬ IllegalAccess (.read 0x00 4) ∧ IllegalAccess (.read 0x10 4) ∧
    IllegalAccess (.read 0x01 4) ∧ IllegalAccess (.write 0x00 2 0) ∧
    ({ blank .mono1 with inputs := [.host (.read 0x10 4)] }).inputs = .host (.read 0x10 4) :: [] := by
  simp [IllegalAccess]

theorem test_witness_FailedDecodeOnlyRecords :
    (executing .mono1 .highPower [] 0 none).inputs = [] ∧
    (executing .mono1 .highPower [] 0 none).seq = .exec ⟨[], false⟩ 0 none ∧
    decode (executing .mono1 .highPower [] 0 none).build.variant [] false = .error .badLength := ⟨rfl, rfl, rfl⟩

/-- Every power state that a clause names, and both enable operands. -/
theorem test_witness_PowerTableRefusesOrIgnores :
    (∀ w ∈ [Power.uninitialized, .sleeping], (executing .mono1 w [0x21] 0 none).pwr ∈ [.uninitialized, .sleeping]) ∧
    (executing .mono1 .highPower [0x22] 0 none).pwr = .highPower ∧ (executing .mono1 .lowPower [0x23] 0 none).pwr = .lowPower ∧
    ((executing .mono1 .sleeping [0x24, 0x01] 0 none).pwr = .sleeping ∧ (0x01 : Byte) ≠ 0) ∧
    (executing .mono1 .lowPower [0x24, 0x00] 0 none).pwr ∈ [Power.highPower, .lowPower] := by decide

/-- LPM's one command in flight and the transport about to fail it; the last event that can fail of an INIT too. -/
theorem test_witness_TransportFailAborts :
    (let s : State := { executing .mono1 .highPower [0x23] 0 (some (.cmd 0x39)) with answers := [false] }
     s.seq = .exec ⟨[0x23], false⟩ 0 (some (.cmd 0x39)) ∧ (eventList .lpm s)[0]? = some (.cmd 0x39) ∧
     (TxEvent.cmd 0x39).canFail = true ∧ s.nextAnswer = false) ∧
    (let s : State := { executing .mono1 .initializing [0x20] 9 (some (.cmd 0x29)) with answers := [false] }
     s.seq = .exec ⟨[0x20], false⟩ 9 (some (.cmd 0x29)) ∧ (eventList .init s)[9]? = some (.cmd 0x29) ∧
     (TxEvent.cmd 0x29).canFail = true ∧ s.nextAnswer = false) := by decide

/-- The last pixel of each panel, the first point outside, the last byte and bit (R136; 95 section 2.1). -/
theorem test_witness_DecoderIsBijective :
    inBounds (testBuild .mono1) (167, 383) = true ∧ inBounds (testBuild .gray2) (7, 7) = true ∧
    inBounds (testBuild .mono1) (168, 0) = false ∧ 8063 < (testBuild .mono1).fbLen ∧ 15 < (testBuild .gray2).fbLen ∧
    pixelIndex (testBuild .mono1) 167 383 = 8063 ∧ pixelBits .mono1 167 383 = [0] ∧ pixelBits .gray2 3 2 = [3, 1] := by decide

/-- A written framebuffer, a point inside and one outside, and a GRAY2 build. -/
theorem test_witness_PhysicalWriteOwnsItsBits :
    Memory.wf [(0, 0x80), (8063, 0x01)] = true ∧ Memory.below (testBuild .mono1).fbLen [(0, 0x80), (8063, 0x01)] = true ∧
    inBounds (testBuild .mono1) (5, 3) = true ∧ inBounds (testBuild .mono1) (-1, 0) = false ∧
    (testBuild .gray2).variant = .gray2 ∧ Memory.below (testBuild .gray2).fbLen [(15, 0x01)] = true := by decide

/-- A canonical framebuffer, for PLOT_RAW, DRAW_PIXEL and the rasterizer (`PaintsPoints`), with a point inside and one outside. -/
theorem test_witness_PlotRawResult :
    FbCanonical { blank .mono1 with fb := [(0, 0x80)] } ∧ inBounds (blank .mono1).build (5, 3) = true ∧
    inBounds (blank .mono1).build (168, 0) = false := ⟨⟨by decide, by decide⟩, by decide, by decide⟩

theorem test_witness_DrawPixelResult : FbCanonical { blank .gray2 with fb := [(15, 0x01)], rot := 3 } :=
  ⟨by decide, by decide⟩

/-- The greatest level, and a point inside after the rotation. -/
theorem test_witness_DrawPixelGrayResult :
    FbCanonical { blank .gray2 with rot := 1 } ∧ (blank .gray2).build.variant = .gray2 ∧ (3 : Byte).toNat ≤ 3 ∧
    inBounds (blank .gray2).build (rotate (blank .gray2).build 1 (7, 7)) = true := ⟨⟨by decide, by decide⟩, rfl, by decide, by decide⟩

theorem test_witness_DrawPixelGrayErrors :
    ((blank .gray2).build.variant = .gray2 ∧ 3 < (4 : Byte).toNat) ∧ (blank .mono1).build.variant = .mono1 := by decide

/-- R138, R139: a point inside and the first outside of the canvas at ROT 1 (95 section 2.1). -/
theorem test_witness_ReadPixelResult :
    inBounds (blank .mono1).build (rotate (blank .mono1).build 1 (383, 167)) = true ∧
    inBounds (blank .mono1).build (rotate (blank .mono1).build 1 (0, 168)) = false := by decide

theorem test_witness_DrawnPixelReadsBack :
    FbCanonical (blank .gray2) ∧ onCanvas (testBuild .gray2) 1 (7, 7) ∧ (blank .gray2).build.variant = .gray2 := by
  refine ⟨⟨by decide, by decide⟩, ?_, rfl⟩
  simp [onCanvas, testBuild, Build.panelW, Build.panelH]

/-- The last point of the canvas at ROT 0 and at ROT 1. -/
theorem test_witness_FilledPixelsReadBack :
    onCanvas (blank .mono1).build (blank .mono1).rot (167, 383) ∧ onCanvas (testBuild .mono1) 1 (383, 167) := by
  simp [onCanvas, blank, State.resetOf, testBuild, Build.panelW, Build.panelH]

theorem test_witness_RasterizerPaintsItsPoints : FbCanonical { blank .mono1 with rot := 2, fb := [(8063, 0x01)] } :=
  ⟨by decide, by decide⟩

/-- A steep line and one that is not, with their last two points. -/
theorem test_witness_LineIsConnected :
    ((linePoints (0, 0) (2, 5))[4]? = some (2, 4) ∧ (linePoints (0, 0) (2, 5))[5]? = some (2, 5)) ∧
    ((linePoints (0, 0) (4, 4))[3]? = some (3, 3) ∧ (linePoints (0, 0) (4, 4))[4]? = some (4, 4)) := by decide

/-- A horizontal, a vertical and both diagonal lines, and the one-point line that is all of them. -/
theorem test_witness_StraightLinesAreExact :
    linePoints (2, 0) (2, 3) = [(2, 0), (2, 1), (2, 2), (2, 3)] ∧ linePoints (3, 0) (0, 0) = [(0, 0), (1, 0), (2, 0), (3, 0)] ∧
    linePoints (4, 0) (0, 4) = [(0, 4), (1, 3), (2, 2), (3, 1), (4, 0)] ∧ linePoints (3, 3) (3, 3) = [(3, 3)] := by decide

/-- The symmetric points of one step, and the axis point. -/
theorem test_witness_CircleIsSymmetricInItsBox :
    ((0 + 1, 0 + 2) : Point) ∈ circlePoints (0, 0) 2 ∧ ((0 + 2, 0 + 0) : Point) ∈ circlePoints (0, 0) 2 := by decide

theorem test_witness_FilledCircleContainsCircle :
    ((-1, 2) : Point) ∈ circlePoints (0, 0) 2 ∧ ((1, 2) : Point) ∈ circlePoints (0, 0) 2 ∧ Between (-1) 1 0 := by
  refine ⟨by decide, by decide, ?_⟩
  simp [Between]

/-- An edge, a horizontal one (both clauses of R234), and a row with crossings. -/
theorem test_witness_PolygonCrossingsAreEven :
    ((0, 0) : Point).2 ≤ ((3, 4) : Point).2 ∧ ((0, 0) : Point).2 = ((3, 0) : Point).2 ∧
    (crossings [(0, 0), (3, 0), (0, 4)] 1).length = 2 := by decide

theorem test_witness_FilledTriangleProperties :
    ((0, 4) : Point) ∈ trianglePoints (0, 0) (6, 0) (0, 4) ∧ ((0, 4) : Point) ∈ fillTrianglePoints (0, 0) (6, 0) (0, 4) ∧
    ((0, 4) : Point) ∉ scanFill [(0, 0), (6, 0), (0, 4)] := by decide

theorem test_witness_TriangleOutlineProperties :
    ((0, 0) : Point).2 = ((3, 0) : Point).2 ∧ ((3, 0) : Point).2 = ((6, 0) : Point).2 ∧
    ((6, 0) : Point) ∈ trianglePoints (0, 0) (3, 0) (6, 0) := by decide

/-- A string and a font at the bounds of STRING_WIDTH's clauses. -/
theorem test_witness_StringWidthResult :
    ([0x31, 0x30] : List Byte).length ≤ 255 ∧ ({ fontTF with width := 255, bpc := 160, rom := List.replicate 320 0 } : Font).Conforming ∧
    (blank .mono1).build.font.Conforming := by
  refine ⟨by decide, ⟨by decide, by decide, by decide, by decide, by decide, by decide, ?_⟩, by decide⟩
  exact List.length_replicate.trans (by decide)

theorem test_witness_HousekeepingResults :
    (0x01 : Byte) ∈ ([0x00, 0x01] : List Byte) ∧ (executing .mono1 .highPower [0x01, 0x00] 0 none).inputs = [] ∧
    (executing .mono1 .highPower [0x01, 0x00] 0 none).seq = .exec ⟨[0x01, 0x00], false⟩ 0 none := by decide

/-- A 1 bit, a 0 bit, the cell's last pixel, and a font with an opaque background. -/
theorem test_witness_DrawCharPaintsGlyph :
    FbCanonical (blank .mono1) ∧ (blank .mono1).build.font.Conforming ∧ fontTFV.Conforming ∧
    glyphBit fontTF (glyphSelect fontTF 0x31) 1 0 = .ok true ∧ glyphBit fontTF (glyphSelect fontTF 0x31) 0 0 = .ok false ∧
    glyphBit fontTF (glyphSelect fontTF 0x30) 2 4 = .ok true ∧ ({ fontTF with bg := .solid }).Conforming :=
  ⟨⟨by decide, by decide⟩, by decide, by decide, by rfl, by rfl, by rfl, by decide⟩

theorem test_witness_DrawStringPaintsGlyphs :
    FbCanonical (blank .gray2) ∧ (blank .gray2).build.font.Conforming ∧ ([0x31, 0x30] : List Byte)[1]? = some 0x30 :=
  ⟨⟨by decide, by decide⟩, by decide, by decide⟩

/-- A first event, a frame of each kind, and the last event of the list. -/
theorem test_witness_NextEventIsIssued :
    (eventList .init (executing .mono1 .initializing [0x20] 0 none))[0]? = some .txSetup ∧
    (eventList .init (executing .mono1 .initializing [0x20] 6 none))[6]? = some (.data 0x01) ∧
    (eventList .init (executing .mono1 .initializing [0x20] 9 none))[9]? = some (.cmd 0x29) ∧
    (eventList .display (executing .gray2 .lowPower [0x21] 7 none))[7]? = some (.burst (List.replicate 16 0)) ∧
    (executing .gray2 .lowPower [0x21] 7 none).seq = .exec ⟨[0x21], false⟩ 7 none := by decide

/-- An event that cannot fail, and one that can, with the transport about to answer ok. -/
theorem test_witness_EventCompletesOk :
    ((eventList .init (executing .mono1 .initializing [0x20] 1 (some (.rst false))))[1]? = some (.rst false) ∧
      (TxEvent.rst false).canFail = false) ∧
    (let s : State := { executing .mono1 .highPower [0x23] 0 (some (.cmd 0x39)) with answers := [true] }
     s.seq = .exec ⟨[0x23], false⟩ 0 (some (.cmd 0x39)) ∧ (eventList .lpm s)[0]? = some (.cmd 0x39) ∧ s.nextAnswer = true) := by
  decide

/-- For each clause, the power state and the count of events done. -/
theorem test_witness_ProtocolOperationsCommit :
    (∀ c ∈ [(Power.initializing, (initEvents (testBuild .gray2)).length), (.highPower, (displayEvents (testBuild .gray2) []).length),
        (.lowPower, 1), (.highPower, 1), (.highPower, 2), (.lowPower, 4), (.sleeping, 2), (.uninitialized, 1)],
      (executing .gray2 c.1 [0x24, 0x01] c.2 none).pwr = c.1 ∧
      (executing .gray2 c.1 [0x24, 0x01] c.2 none).seq = .exec ⟨[0x24, 0x01], false⟩ c.2 none ∧
      (executing .gray2 c.1 [0x24, 0x01] c.2 none).build = testBuild .gray2 ∧
      (executing .gray2 c.1 [0x24, 0x01] c.2 none).fb = []) ∧
    (initEvents (testBuild .gray2)).length = 10 ∧ (displayEvents (testBuild .gray2) []).length = 8 ∧ (0x01 : Byte) ≠ 0 := by
  decide

/-- Of INIT's ten events the five that can fail: TxSetup and the four frames. -/
theorem test_witness_InitRuns :
    let s : State := { executing .mono1 .uninitialized [0x20] 0 none with answers := List.replicate 5 true ++ [false] }
    s.seq = .exec ⟨[0x20], false⟩ 0 none ∧ s.csN = true ∧ AnswersOk s (fallible (initEvents s.build)) [false] := by
  refine ⟨rfl, rfl, ?_⟩
  simp only [AnswersOk]
  decide

theorem test_witness_DisplayRuns :
    let s : State := { executing .gray2 .lowPower [0x21] 0 none with answers := List.replicate 8 true }
    s.pwr ∈ [.highPower, .lowPower] ∧ s.seq = .exec ⟨[0x21], false⟩ 0 none ∧ s.csN = true ∧
      AnswersOk s (fallible (displayEvents s.build s.fb)) [] := by
  refine ⟨by decide, rfl, rfl, ?_⟩
  simp only [AnswersOk]
  decide

/-- Each transition: from LOW_POWER to HIGH_POWER and back, into sleep from both, and out of it. -/
theorem test_witness_PowerTransitionsRun :
    let s : Power → State := fun w => { executing .mono1 w [0x24, 0x01] 0 none with answers := [true, true] }
    (∀ w ∈ [Power.lowPower, .highPower, .sleeping],
      (s w).seq = .exec ⟨[0x24, 0x01], false⟩ 0 none ∧ (s w).csN = true ∧ (s w).pwr = w) ∧ (0x01 : Byte) ≠ 0 ∧
      AnswersOk (s .lowPower) (fallible [.cmd 0x38]) [true] ∧ AnswersOk (s .highPower) (fallible [.cmd 0x39]) [true] ∧
      AnswersOk (s .highPower) (fallible [.cmd 0x10, .delay 5]) [true] ∧
      AnswersOk (s .lowPower) (fallible [.cmd 0x38, .delay 7, .cmd 0x10, .delay 5]) [] ∧
      AnswersOk (s .sleeping) (fallible [.cmd 0x11, .delay 6]) [true] := by
  simp only [AnswersOk]
  decide

theorem test_witness_TogglesRun :
    let s : State := { executing .mono1 .uninitialized [0x25, 0x01] 0 none with answers := [true] }
    s.seq = .exec ⟨[0x25, 0x01], false⟩ 0 none ∧ s.csN = true ∧ AnswersOk s 1 [] := ⟨rfl, rfl, rfl⟩

theorem test_witness_ClearThenDisplaySendsZeros :
    let s : State := { executing .gray2 .highPower [0x14, 0x00] 0 none with fb := [(3, 0xFF)], answers := List.replicate 8 true }
    s.pwr ∈ [.highPower, .lowPower] ∧ s.seq = .exec ⟨[0x14, 0x00], false⟩ 0 none ∧ s.csN = true ∧
      AnswersOk s (fallible (displayEvents s.build [])) [] := by
  refine ⟨by decide, rfl, rfl, ?_⟩
  simp only [AnswersOk]
  decide

/-- A reset in the middle of a frame, and one with nothing in flight. -/
theorem test_witness_BlockResetFromAnyState :
    (∃ s : State, s.inputs = [.blockReset] ∧ s.seq = .exec ⟨[0x23], false⟩ 0 (some (.cmd 0x39))) ∧
    (∃ s : State, s.inputs = [.blockReset] ∧ s.seq = .idle) :=
  ⟨⟨{ executing .mono1 .highPower [0x23] 0 (some (.cmd 0x39)) with inputs := [.blockReset] }, rfl, rfl⟩,
   ⟨{ blank .mono1 with inputs := [.blockReset] }, rfl, rfl⟩⟩

/-- An INIT with its seventh event, a frame, in flight, the transport about to fail it, and OVERRUN recorded. -/
def midInit : State :=
  { executing .mono1 .initializing [0x20] 6 (some (.data 0x01)) with
    csN := false, err := true, errCode := .overrun, answers := [false] }

theorem test_midInit_inv : BlockInv midInit := by
  have hd : decode .mono1 [0x20] false = .ok .init := rfl
  refine ⟨⟨rfl, rfl⟩, ⟨Nat.zero_le _, by decide⟩, by unfold ErrConsistent; decide, ?_, ?_, ?_⟩
  · exact ⟨fun _ => ⟨⟨[0x20], false⟩, 6, _, rfl, hd⟩, fun _ => rfl⟩
  · exact ⟨fun _ => ⟨⟨[0x20], false⟩, 6, .data 0x01, rfl, rfl⟩, fun _ => rfl⟩
  · intro p k f h
    cases h
    have hd' : decode midInit.build.variant [0x20] false = .ok .init := hd
    simp only [hd']
    exact ⟨by decide, fun e he => by cases he; decide⟩

/-- For `StepKeepsInvariant`, `PowerChangesAreEdges`, `RegistersHaveTheirWriters` and `FirstErrorStaysUntilCleared`: the step aborts
the INIT, PWR changes, and the recorded error stays. -/
theorem test_witness_StepKeepsInvariant :
    BlockInv midInit ∧ ¬ ResetNext midInit ∧ midInit.err = true ∧
      ((nextOf (step midInit)).map fun t => (t.pwr, t.err, t.errCode, t.csN)) = some (.uninitialized, true, .overrun, true) :=
  ⟨test_midInit_inv, by simp [ResetNext, midInit, executing, blank, State.resetOf], by decide, by decide⟩

/-- Steps that change FB, ROT and RESULT. -/
theorem test_witness_RegistersHaveTheirWriters :
    ((nextOf (step (executing .mono1 .lowPower [0x14, 0x00] 0 none))).map State.seq) = some .idle ∧
    ((nextOf (step (executing .mono1 .lowPower [0x15, 0x01] 0 none))).map State.rot) = some 1 ∧
    ((nextOf (step (executing .mono1 .lowPower [0x42, 0x01, 0x30] 0 none))).map State.result) = some 3 := by decide

/-- A conforming font, and a step that is refused. -/
theorem test_witness_OnlyIllegalAccessStops :
    (blank .mono1).build.font.Conforming ∧ step { blank .mono1 with inputs := [.host (.read 0x10 4)] } = .refused .hostAccess :=
  ⟨by decide, rfl⟩

theorem test_witness_EveryOperationEnds :
    BlockInv midInit ∧ midInit.build.font.Conforming ∧ midInit.inputs = [] ∧
      midInit.seq = .exec ⟨[0x20], false⟩ 6 (some (.data 0x01)) ∧ decode .mono1 [0x20] false = .ok .init :=
  ⟨test_midInit_inv, by decide, rfl, rfl, rfl⟩

end Sys2Proof.Tests
end

section
/-!
PROOFS. The block's state (10_state.md): what STATUS shows (rules R36, R40), the values after reset (R49, R342), and how long a
recorded error stays (R39).
-/

namespace Sys2Proof.Machine

/-! ### The STATUS register -/

theorem Power.code_le (p : Power) : p.code ≤ 4 := by
  cases p <;> decide

theorem errCodeValue_le (c : ErrCode) : errCodeValue c ≤ 7 := by
  cases c <;> decide

theorem variantBit_eq_one_iff (v : Variant) : variantBit v = 1 ↔ v = .gray2 := by
  cases v <;> decide

theorem variantBit_le (v : Variant) : variantBit v ≤ 1 := by
  cases v <;> decide

/-- Each field of STATUS is in the range of its bits. -/
theorem statusFields_bounded (s : State) :
    s.busy.toNat ≤ 1 ∧ s.pwr.code ≤ 4 ∧ s.rot.toNat < 4 ∧ s.err.toNat ≤ 1 ∧ errCodeValue s.errCode ≤ 7 ∧
      variantBit s.build.variant ≤ 1 :=
  ⟨s.busy.toNat_le, s.pwr.code_le, s.rot.isLt, s.err.toNat_le, errCodeValue_le _, variantBit_le _⟩

/-- The fields of STATUS do not overlap and fit in 13 bits, so the word loses nothing of their sum. -/
theorem statusWord_toNat (s : State) :
    (statusWord s).toNat = s.busy.toNat + 2 * s.pwr.code + 16 * s.rot.toNat + 64 * s.err.toNat +
      256 * errCodeValue s.errCode + 4096 * variantBit s.build.variant := by
  obtain ⟨hbusy, hpwr, hrot, herr, hcode, hvariant⟩ := statusFields_bounded s
  rw [statusWord, BitVec.toNat_ofNat]
  omega

theorem getLsbD_eq_true_iff {w : Nat} (x : BitVec w) (k : Nat) : x.getLsbD k = true ↔ x.toNat / 2 ^ k % 2 = 1 := by
  rw [BitVec.getLsbD, Nat.testBit_eq_decide_div_mod_eq, decide_eq_true_iff]

/-- Settles O11: each field is a quotient and remainder of the sum of `statusWord_toNat`, in which the fields below it are smaller
than its place and those above it are multiples of its range. -/
theorem statusFields : Obligations.StatusFields := by
  intro s
  have hsum := statusWord_toNat s
  obtain ⟨hbusy, hpwr, hrot, herr, hcode, hvariant⟩ := statusFields_bounded s
  refine ⟨?busy, ?pwr, ?rot, ?err, ?bit7, ?errCode, hcode, ?variant, ?high⟩
  case busy =>
    rw [← busy_iff, ← Bool.toNat_eq_one (b := s.busy), getLsbD_eq_true_iff]
    omega
  case pwr =>
    rw [BitVec.extractLsb'_toNat]
    omega
  case rot =>
    rw [← BitVec.toNat_inj, BitVec.extractLsb'_toNat]
    omega
  case err =>
    rw [Bool.eq_iff_iff, ← Bool.toNat_eq_one (b := s.err), getLsbD_eq_true_iff]
    omega
  case bit7 =>
    rw [← Bool.not_eq_true, getLsbD_eq_true_iff]
    omega
  case errCode =>
    rw [BitVec.extractLsb'_toNat]
    omega
  case variant =>
    rw [← variantBit_eq_one_iff, getLsbD_eq_true_iff]
    omega
  case high =>
    rw [← BitVec.toNat_inj, BitVec.extractLsb'_toNat, BitVec.ofNat_eq_ofNat, BitVec.toNat_zero]
    omega

/-! ### The values after reset -/

theorem statusWord_resetOf (b : Build) :
    statusWord (State.resetOf b) = BitVec.ofNat 32 (4096 * variantBit b.variant) := by
  simp [statusWord, State.resetOf, State.busy, Power.code, errCodeValue]

/-- Settles O52: the fields are those `State.resetOf` gives, and STATUS is left with VARIANT alone. -/
theorem resetValues : Obligations.ResetValues := by
  refine ⟨rfl, fun b => ⟨fun _ => rfl, rfl, rfl, rfl, rfl, rfl, rfl, rfl, rfl, rfl, rfl, rfl, rfl, ?status⟩⟩
  rw [statusWord_resetOf]
  cases b.variant <;> rfl

/-! ### The recorded error -/

/-- An error recorded in `s` is recorded in `t`, with its code. -/
def KeepsRecord (s t : State) : Prop := s.err = true → t.err = true ∧ t.errCode = s.errCode

theorem keepsRecord_recordErr (s : State) (c : ErrCode) : KeepsRecord s (s.recordErr c) :=
  fun hs => by simp [hs]

theorem keepsRecord_raise (s : State) (c : ErrCode) : KeepsRecord s (s.raise c) :=
  keepsRecord_recordErr s c

theorem keepsRecord_issue (s : State) (p : Packet) (k : Nat) (e : TxEvent) : KeepsRecord s (s.issue p k e) :=
  fun hs => by simp [hs]

theorem keepsRecord_eventOk (s : State) (p : Packet) (k : Nat) (e : TxEvent) : KeepsRecord s (s.eventOk p k e) :=
  fun hs => by simp [hs]

theorem keepsRecord_eventFail (s : State) (e : TxEvent) : KeepsRecord s (s.eventFail e) :=
  fun hs => by simp [hs]

theorem keepsRecord_takeAnswer (s : State) : KeepsRecord s s.takeAnswer :=
  fun hs => by simp [hs]

theorem KeepsRecord.refl (s : State) : KeepsRecord s s := fun hs => ⟨hs, rfl⟩

theorem KeepsRecord.trans {s t u : State} (hst : KeepsRecord s t) (htu : KeepsRecord t u) : KeepsRecord s u := fun hs =>
  have ⟨ht, htc⟩ := hst hs
  have ⟨hu, huc⟩ := htu ht
  ⟨hu, huc.trans htc⟩

/-- The end of an event keeps the record whatever the transport answers: a failure is recorded only when no error was (R39, R308). -/
theorem keepsRecord_complete (s : State) (p : Packet) (k : Nat) (e : TxEvent) : KeepsRecord s (s.complete p k e) := by
  by_cases hfail : e.canFail = true ∧ s.nextAnswer = false
  · rw [complete_fail p k hfail.1 hfail.2]
    exact (keepsRecord_takeAnswer s).trans (keepsRecord_eventFail _ e)
  · rw [complete_ok p k (by simpa using hfail)]
    split
    · exact (keepsRecord_takeAnswer s).trans (keepsRecord_eventOk _ p k e)
    · exact keepsRecord_eventOk s p k e

theorem keepsRecord_sequence (s : State) (evs : List TxEvent) {f : State → State} (hf : KeepsRecord s (f s)) :
    KeepsRecord s (s.sequence evs f) := by
  unfold State.sequence
  split
  · exact .refl s
  · exact keepsRecord_complete s _ _ _
  · split
    · exact keepsRecord_issue s _ _ _
    · exact hf

/-- CLEAR_ERR is the only operation whose step clears the record (R39, R190). -/
theorem keepsRecord_exec {i : Instr} {s t : State} (hi : i ≠ .clearErr) (h : exec i s = .next t) : KeepsRecord s t := by
  cases exec_cases h with
  | drew | rotated | gaveResult | idled => exact .refl s
  | cleared hclear => exact absurd hclear hi
  | raised c => exact keepsRecord_raise s c
  | init => exact keepsRecord_sequence (s.setPwr .initializing) _ (.refl s)
  | emits => exact keepsRecord_sequence s _ (.refl s)
  | switches => exact keepsRecord_sequence s _ (.refl s)

theorem keepsRecord_hostCase {s t : State} (h : HostCase s t) : KeepsRecord s t := by
  cases h with
  | observed | ignored | appended | overflowed | started => exact .refl s
  | overrun => exact keepsRecord_recordErr s _

/-- A turn of the sequencer keeps the record, or is the step of CLEAR_ERR. -/
theorem keepsRecord_or_clears_of_turn {s t : State} (h : sequencerTurn s = .next t) :
    KeepsRecord s t ∨ (Executing s .clearErr ∧ t = s.clearRecord.commit) := by
  obtain ⟨-, rfl⟩ | ⟨-, -, -, c, -, -, rfl⟩ | ⟨i, hi, ht⟩ := turn_cases h
  · exact .inl (.refl _)
  · exact .inl (keepsRecord_raise s c)
  · by_cases hclear : i = .clearErr
    · subst hclear
      cases ht
      exact .inr ⟨hi, rfl⟩
    · exact .inl (keepsRecord_exec hclear ht)

/-- A step keeps the record, or is one of the two that clear it (R39). -/
theorem keepsRecord_or_clears {s t : State} (h : step s = .next t) :
    KeepsRecord s t ∨
      ((ResetNext s ∨ (SequencersTurn s ∧ Executing s .clearErr)) ∧ t.err = false ∧ t.errCode = .noError) := by
  obtain ⟨hin, hturn⟩ | ⟨rest, hin, hturn⟩ | ⟨a, rest, -, hcase⟩ | ⟨rest, hin, rfl⟩ := step_cases h
  · refine (keepsRecord_or_clears_of_turn hturn).imp_right ?_
    rintro ⟨hclear, rfl⟩
    exact ⟨.inr ⟨.inl hin, hclear⟩, rfl, rfl⟩
  · refine (keepsRecord_or_clears_of_turn hturn).imp id ?_
    rintro ⟨hclear, rfl⟩
    exact ⟨.inr ⟨.inr (by simp [hin]), hclear⟩, rfl, rfl⟩
  · exact .inl (keepsRecord_hostCase (s := { s with inputs := rest }) hcase)
  · exact .inr ⟨.inl (by simp [ResetNext, hin]), rfl, rfl⟩

/-- Settles O58: `recordErr` by its two branches, and the step by `keepsRecord_or_clears`. -/
theorem firstErrorStaysUntilCleared : Obligations.FirstErrorStaysUntilCleared := by
  refine ⟨fun s c => ⟨fun hs => ?_, fun hs => ?_⟩, fun s t h hs => ?_⟩
  · simp [State.recordErr, hs]
  · simp [State.recordErr, hs]
  · exact (keepsRecord_or_clears h).imp_left fun hkeeps => hkeeps hs

end Sys2Proof.Machine
end

section
/-!
PROOFS. Memory (20_memory.md): the contract of the host's register window (rule R65). A host access is refused outside the contract
(`hostAccess_of_illegal`) and answers next inside it (`hostAccess_of_legal`), whatever the block's state.
-/

namespace Sys2Proof.Machine

theorem step_of_host {s : State} {a : HostAccess} {rest : List Input} (hin : s.inputs = .host a :: rest) :
    step s = hostAccess { s with inputs := rest } a := by
  simp only [step, advance, hin, takeInput]

/-- The four offsets are those at which a register answers (R64). -/
theorem registerValue_eq_none_iff (s : State) (offset : Nat) :
    registerValue s offset = none ↔ offset ∉ [0x00, 0x04, 0x08, 0x0C] := by
  unfold registerValue
  split_ifs <;> simp [*]

theorem hostRead_of_none {s : State} {offset : Nat} (h : registerValue s offset = none) (width : Nat) :
    hostRead s offset width = .refused .hostAccess := by
  simp [hostRead, h]

theorem hostRead_of_some {s : State} {offset : Nat} {v : Word} (h : registerValue s offset = some v) :
    hostRead s offset 4 = .next { s with reads := s.reads ++ [v] } := by
  simp [hostRead, h]

theorem hostRead_of_width_ne {width : Nat} (h : width ≠ 4) (s : State) (offset : Nat) :
    hostRead s offset width = .refused .hostAccess := if_neg h

theorem hostWrite_of_width_ne {width : Nat} (h : width ≠ 4) (s : State) (offset : Nat) (v : Word) :
    hostWrite s offset width v = .refused .hostAccess := if_neg h

theorem hostWrite_of_not_mem {offset : Nat} (h : offset ∉ [0x00, 0x04, 0x08, 0x0C]) (s : State) (width : Nat) (v : Word) :
    hostWrite s offset width v = .refused .hostAccess := by
  simp only [List.mem_cons, List.not_mem_nil, or_false, not_or] at h
  obtain ⟨hstatus, hresult, hcmd, hdoorbell⟩ := h
  simp [hostWrite, hstatus, hresult, hcmd, hdoorbell]

theorem hostWrite_of_mem {offset : Nat} (h : offset ∈ [0x00, 0x04, 0x08, 0x0C]) (s : State) (v : Word) :
    ∃ t, hostWrite s offset 4 v = .next t := by
  simp only [List.mem_cons, List.not_mem_nil, or_false] at h
  obtain rfl | rfl | rfl | rfl := h
  · exact ⟨s, rfl⟩
  · exact ⟨s, rfl⟩
  · exact ⟨cmdWrite s v, rfl⟩
  · exact ⟨doorbellWrite s, rfl⟩

/-- Another width or another offset is refused in every state (R65). -/
theorem hostAccess_of_illegal {a : HostAccess} (h : IllegalAccess a) (s : State) :
    hostAccess s a = .refused .hostAccess := by
  cases a with
  | read offset width =>
    obtain hwidth | hoffset := not_and_or.1 h
    · exact hostRead_of_width_ne hwidth s offset
    · exact hostRead_of_none ((registerValue_eq_none_iff s offset).2 hoffset) width
  | write offset width v =>
    obtain hwidth | hoffset := not_and_or.1 h
    · exact hostWrite_of_width_ne hwidth s offset v
    · exact hostWrite_of_not_mem hoffset s width v

/-- An aligned 32-bit access at one of the four offsets answers next in every state (R64, R65). -/
theorem hostAccess_of_legal {a : HostAccess} (h : ¬ IllegalAccess a) (s : State) : ∃ t, hostAccess s a = .next t := by
  cases a with
  | read offset width =>
    obtain ⟨rfl, hoffset⟩ := not_not.1 h
    obtain ⟨v, hv⟩ := Option.ne_none_iff_exists'.1 (mt (registerValue_eq_none_iff s offset).1 (not_not.2 hoffset))
    exact ⟨_, hostRead_of_some hv⟩
  | write offset width v =>
    obtain ⟨rfl, hoffset⟩ := not_not.1 h
    exact hostWrite_of_mem hoffset s v

/-- Settles O13: the step is the access, which is refused outside the contract and answers next inside it. -/
theorem accessOutsideContractRefused : Obligations.AccessOutsideContractRefused := by
  intro s a rest hin
  rw [step_of_host hin]
  refine ⟨fun hillegal => hostAccess_of_illegal hillegal _, fun hrefused => ?_⟩
  by_contra hlegal
  obtain ⟨t, hnext⟩ := hostAccess_of_legal hlegal { s with inputs := rest }
  rw [hnext] at hrefused
  cases hrefused

end Sys2Proof.Machine
end

section
/-!
PROOFS. Encoding (30_encoding.md): which opcodes have a row (rule R105), the checks of the decode (rule R106), what a packet that does
not decode leaves (rule R108), the worked packets (rule R111), and a write to CMD (rule R90).
-/

namespace Sys2Proof.Machine

/-! ### The decode -/

theorem opRows_opcodes : opRows.map OpRow.opcode =
    [0x00, 0x01, 0x10, 0x11, 0x12, 0x13, 0x14, 0x15, 0x20, 0x21, 0x22, 0x23, 0x24, 0x25, 0x26,
      0x30, 0x31, 0x32, 0x33, 0x34, 0x35, 0x36, 0x40, 0x41, 0x42] := rfl

theorem opRow_eq_none_iff_not_mem (op : Byte) : opRow op = none ↔ op ∉ opRows.map OpRow.opcode := by
  simp [opRow, List.find?_eq_none]

/-- The opcodes without a row are the reserved ones: the rows of R105 and its list of reserved values cover every byte once. -/
theorem opRow_eq_none_iff (op : Byte) : opRow op = none ↔ ReservedOpcode op := by
  rw [opRow_eq_none_iff_not_mem, opRows_opcodes, ReservedOpcode]
  simp only [List.mem_cons, List.not_mem_nil, or_false, ← BitVec.toNat_inj, BitVec.reduceToNat]
  omega

theorem exists_opRow_of_not_reserved {op : Byte} (h : ¬ ReservedOpcode op) : ∃ row, opRow op = some row :=
  Option.ne_none_iff_exists'.1 (mt (opRow_eq_none_iff op).1 h)

theorem decode_nil (v : Variant) (povf : Bool) : decode v [] povf = .error .badLength := rfl

theorem decode_of_reserved {op : Byte} (h : ReservedOpcode op) (v : Variant) (rest : List Byte) (povf : Bool) :
    decode v (op :: rest) povf = .error .badOpcode := by
  simp only [decode, (opRow_eq_none_iff op).2 h]

theorem decode_drawPixelGray_mono1 (rest : List Byte) (povf : Bool) :
    decode .mono1 (0x12 :: rest) povf = .error .unsupported := rfl

/-- A packet whose opcode has a row in the variant decodes exactly when it did not overflow and has its format's length. -/
theorem decode_of_opRow {v : Variant} {op : Byte} {row : OpRow} (hrow : opRow op = some row) (hv : ¬ (op = 0x12 ∧ v = .mono1))
    (rest : List Byte) (povf : Bool) :
    decode v (op :: rest) povf =
      if povf = false ∧ row.format.length (op :: rest) = some (rest.length + 1) then .ok (row.make (op :: rest))
      else .error .badLength := by
  simp only [decode, hrow, if_neg hv]
  cases povf with
  | true => simp
  | false =>
    cases hlen : row.format.length (op :: rest) with
    | none => simp
    | some len => simp [eq_comm]

/-- Settles O4: an opcode that is not reserved has a row, and with it the two last clauses are the branches of `decode_of_opRow`. -/
theorem decodeChecksInOrder : Obligations.DecodeChecksInOrder := by
  intro v povf op rest
  refine ⟨decode_nil v povf, fun hres => decode_of_reserved hres v rest povf, ?unsupported, fun hres hv => ?row⟩
  case unsupported =>
    rintro rfl rfl
    exact decode_drawPixelGray_mono1 rest povf
  case row =>
    obtain ⟨row, hrow⟩ := exists_opRow_of_not_reserved hres
    refine ⟨row, hrow, fun hbad => ?_, fun hpovf hlen => ?_⟩
    · rw [decode_of_opRow hrow hv, if_neg]
      rintro ⟨rfl, hlen⟩
      exact hbad.elim Bool.false_ne_true (· hlen)
    · rw [decode_of_opRow hrow hv, if_pos ⟨hpovf, hlen⟩]

/-- Settles O5: the packets are closed, and both directions evaluate; no worked opcode depends on the variant. -/
theorem workedPacketsDecode : Obligations.WorkedPacketsDecode :=
  ⟨⟨rfl, fun _ => rfl⟩, ⟨rfl, fun _ => rfl⟩, ⟨rfl, fun _ => rfl⟩, ⟨rfl, fun _ => rfl⟩, ⟨rfl, fun _ => rfl⟩,
    ⟨rfl, fun _ => rfl⟩⟩

/-! ### A packet that does not decode -/

/-- Recording an error sets ERR, and sets ERR_CODE where no error was recorded (R39); nothing else changes. -/
theorem recordErr_eq (s : State) (c : ErrCode) :
    s.recordErr c = { s with err := true, errCode := if s.err then s.errCode else c } := by
  unfold State.recordErr
  split
  next herr => simp [← herr]
  next => rfl

theorem raise_eq (s : State) (c : ErrCode) :
    s.raise c = { s with err := true, errCode := if s.err then s.errCode else c, seq := .idle } := by
  rw [State.raise, recordErr_eq, State.setSeq]

theorem step_of_no_input {s : State} (hin : s.inputs = []) : step s = sequencerTurn s := by
  simp only [step, advance, hin]

/-- The turn of a packet that does not decode records the decode's error and ends the operation (R303, R305). -/
theorem sequencerTurn_of_decode_error {s : State} {p : Packet} {k : Nat} {f : Option TxEvent} {c : ErrCode}
    (hseq : s.seq = .exec p k f) (hdec : decode s.build.variant p.bytes p.povf = .error c) :
    sequencerTurn s = .next (s.raise c) := by
  simp only [sequencerTurn, hseq, hdec]

/-- Settles O3: a reserved opcode does not decode, whatever follows it, and `raise_eq` says what is left. -/
theorem reservedOpcodeOnlyRecords : Obligations.ReservedOpcodeOnlyRecords := by
  intro s op rest povf k f hres hin hseq
  rw [step_of_no_input hin, sequencerTurn_of_decode_error hseq (decode_of_reserved hres _ rest povf), raise_eq]

/-! ### Writes to CMD -/

theorem cmdWrite_of_idle {s : State} (hidle : s.seq = .idle) (v : Word) :
    cmdWrite s v =
      if s.pbuf.length < Config.pktMax then { s with pbuf := s.pbuf ++ [v.setWidth 8] } else { s with povf := true } :=
  if_neg fun hbusy => (busy_iff s).1 hbusy hidle

theorem cmdWrite_of_busy {s : State} (hbusy : s.seq ≠ .idle) (v : Word) : cmdWrite s v = s.recordErr .overrun :=
  if_pos ((busy_iff s).2 hbusy)

/-- Settles O8: a write at offset 8 is `cmdWrite`, which appends or overflows where idle and records OVERRUN where busy. -/
theorem cmdWriteAppends : Obligations.CmdWriteAppends := by
  intro s v
  have hwrite : hostWrite s 0x08 4 v = .next (cmdWrite s v) := rfl
  rw [hwrite]
  refine ⟨fun hidle => ?_, fun hbusy => ?_⟩
  · rw [cmdWrite_of_idle hidle, Config.pktMax]
  · rw [cmdWrite_of_busy hbusy, recordErr_eq]

end Sys2Proof.Machine
end

section
/-!
PROOFS. The framebuffer (40_framebuffer.md): the packed-pixel decoder and the rotations are one-to-one (rules R136, R139), what a
physical write changes (rules R68, R137), and what the pixel operations do and read back (rules R143 to R150).
-/

namespace Sys2Proof.Machine

/-! ### The decoder -/

theorem pixelIndex_eq (b : Build) (x y : Nat) : pixelIndex b x y = y / 2 * b.dataW + x / b.k1 := by
  unfold pixelIndex Build.k1
  cases b.variant <;> rfl

theorem panelW_eq (b : Build) : b.panelW = b.k1 * b.dataW := by
  unfold Build.dataW Build.panelW Build.k1
  cases b.variant <;> simp

theorem panelH_eq (b : Build) : b.panelH = 2 * b.dataH := by
  unfold Build.dataH Build.panelH Build.k2
  cases b.variant <;> simp

theorem monoBit_lt (x y : Nat) : monoBit x y < 8 := by
  unfold monoBit
  omega

theorem bitA_lt (x y : Nat) : bitA x y < 8 := by
  unfold bitA
  omega

theorem bitB_lt (x y : Nat) : bitB x y < 8 := by
  unfold bitB
  omega

theorem bitA_ne_bitB (x y : Nat) : bitA x y ≠ bitB x y := by
  unfold bitA bitB
  omega

theorem pixelBits_nodup (v : Variant) (x y : Nat) : (pixelBits v x y).Nodup := by
  cases v with
  | mono1 => exact List.nodup_singleton _
  | gray2 => simp [pixelBits, bitA_ne_bitB]

theorem lt_of_mem_pixelBits {v : Variant} {x y k : Nat} (h : k ∈ pixelBits v x y) : k < 8 := by
  cases v with
  | mono1 =>
    rw [List.mem_singleton.1 h]
    exact monoBit_lt x y
  | gray2 =>
    obtain rfl | rfl := List.mem_pair.1 h
    · exact bitA_lt x y
    · exact bitB_lt x y

theorem pixelBits_length (v : Variant) (x y : Nat) : (pixelBits v x y).length = if v = .mono1 then 1 else 2 := by
  cases v <;> rfl

/-- The bits of a byte, from the highest down, go to the columns of its block and within a column alternate between the rows, so a
bit names the place of its pixel in the block (R132, R133). -/
theorem mem_pixelBits_iff {b : Build} {x y k : Nat} (hk : k < 8) :
    k ∈ pixelBits b.variant x y ↔ x % b.k1 = (7 - k) / (8 / b.k1) ∧ y % 2 = (7 - k) % 2 := by
  unfold Build.k1
  cases b.variant <;>
    simp only [pixelBits, monoBit, bitA, bitB, List.mem_cons, List.not_mem_nil, or_false] <;> omega

/-- Pixels of one byte that share a bit are one pixel (R136). -/
theorem eq_of_mem_pixelBits {b : Build} {q q' : Point} {k : Nat} (h : inBounds b q = true) (h' : inBounds b q' = true)
    (hindex : pixelIndex b q.1.toNat q.2.toNat = pixelIndex b q'.1.toNat q'.2.toNat)
    (hk : k ∈ pixelBits b.variant q.1.toNat q.2.toNat) (hk' : k ∈ pixelBits b.variant q'.1.toNat q'.2.toNat) : q = q' := by
  obtain ⟨hrow, hcol⟩ := block_of_pixelIndex_eq h h' hindex
  obtain ⟨hx, hy⟩ := (mem_pixelBits_iff (lt_of_mem_pixelBits hk)).1 hk
  obtain ⟨hx', hy'⟩ := (mem_pixelBits_iff (lt_of_mem_pixelBits hk')).1 hk'
  refine toNat_eq_of_inBounds h h' ⟨?_, by omega⟩
  rw [← Nat.div_add_mod q.1.toNat b.k1, ← Nat.div_add_mod q'.1.toNat b.k1, hcol, hx, hx']

/-- The pixel that owns bit `k` of byte `a`: its block is the byte's, its place in the block the bit's. -/
def bitOwner (b : Build) (a k : Nat) : Nat × Nat :=
  (b.k1 * (a % b.dataW) + (7 - k) / (8 / b.k1), 2 * (a / b.dataW) + (7 - k) % 2)

theorem bitColumn_lt (b : Build) (k : Nat) : (7 - k) / (8 / b.k1) < b.k1 := by
  unfold Build.k1
  cases b.variant <;> simp only <;> omega

theorem inBounds_bitOwner {b : Build} {a : Nat} (ha : a < b.fbLen) (k : Nat) :
    inBounds b ((bitOwner b a k).1, (bitOwner b a k).2) = true := by
  have hrow : a / b.dataW < b.dataH := Nat.div_lt_of_lt_mul ha
  have hcol : a % b.dataW < b.dataW := Nat.mod_lt a (Nat.pos_of_lt_mul_right ha)
  have hx : (bitOwner b a k).1 < b.panelW := by
    calc b.k1 * (a % b.dataW) + (7 - k) / (8 / b.k1)
      _ < b.k1 * (a % b.dataW) + b.k1 := Nat.add_lt_add_left (bitColumn_lt b k) _
      _ ≤ b.k1 * b.dataW := Nat.mul_le_mul_left b.k1 hcol
      _ = b.panelW := (panelW_eq b).symm
  have hy : (bitOwner b a k).2 < b.panelH := by
    rw [panelH_eq, bitOwner]
    omega
  exact inBounds_iff.2 ⟨Int.natCast_nonneg _, Int.ofNat_lt.2 hx, Int.natCast_nonneg _, Int.ofNat_lt.2 hy⟩

theorem pixelIndex_bitOwner {b : Build} (a k : Nat) :
    pixelIndex b (bitOwner b a k).1 (bitOwner b a k).2 = a := by
  have hcol := bitColumn_lt b k
  have hrow : (2 * (a / b.dataW) + (7 - k) % 2) / 2 = a / b.dataW := by omega
  rw [pixelIndex_eq, bitOwner, hrow, Nat.mul_add_div (Nat.zero_lt_of_lt hcol), Nat.div_eq_of_lt hcol, Nat.add_zero, Nat.div_add_mod']

theorem mem_pixelBits_bitOwner (b : Build) (a : Nat) {k : Nat} (hk : k < 8) :
    k ∈ pixelBits b.variant (bitOwner b a k).1 (bitOwner b a k).2 := by
  rw [mem_pixelBits_iff hk, bitOwner, Nat.mul_add_mod, Nat.mod_eq_of_lt (bitColumn_lt b k), Nat.mul_add_mod, Nat.mod_mod]
  exact ⟨rfl, rfl⟩

/-- Settles O18: the owner of a bit is `bitOwner`, and no second pixel has the bit by `eq_of_mem_pixelBits`. -/
theorem decoderIsBijective : Obligations.DecoderIsBijective := by
  intro b
  refine ⟨fun q => pixelIndex_lt, fun x y => ⟨pixelBits_nodup _ x y, fun k => lt_of_mem_pixelBits⟩, fun a ha k hk => ?owner,
    pixelBits_length _, fun hv => ?size⟩
  case owner =>
    have hin := inBounds_bitOwner ha k
    have hindex := pixelIndex_bitOwner (b := b) a k
    have hmem := mem_pixelBits_bitOwner b a hk
    refine ⟨_, ⟨hin, hindex, hmem⟩, ?_⟩
    rintro q ⟨hq, hqindex, hqmem⟩
    exact eq_of_mem_pixelBits hq hin (hqindex.trans hindex.symm) hqmem hmem
  case size => simp [Build.fbLen, Build.dataW, Build.dataH, Build.panelW, Build.panelH, Build.k1, Build.k2, hv]

/-! ### The rotations -/

theorem rotation_cases (r : BitVec 2) : r = 0 ∨ r = 1 ∨ r = 2 ∨ r = 3 := by
  revert r
  decide

theorem onCanvas_iff_inBounds_rotate (b : Build) (r : BitVec 2) (p : Point) :
    onCanvas b r p ↔ inBounds b (rotate b r p) = true := by
  rw [inBounds_iff]
  obtain rfl | rfl | rfl | rfl := rotation_cases r <;> simp [onCanvas, rotate] <;> omega

theorem unrotate_rotate (b : Build) (r : BitVec 2) (p : Point) : unrotate b r (rotate b r p) = p := by
  obtain rfl | rfl | rfl | rfl := rotation_cases r <;> simp [unrotate, rotate]

theorem rotate_unrotate (b : Build) (r : BitVec 2) (q : Point) : rotate b r (unrotate b r q) = q := by
  obtain rfl | rfl | rfl | rfl := rotation_cases r <;> simp [unrotate, rotate]

/-- Rotation 3 after rotation 1 moves a point by the difference of the panel's sides, so it is the identity only on a square panel. -/
theorem rotate_three_rotate_one (b : Build) (p : Point) :
    rotate b 3 (rotate b 1 p) = (p.1, p.2 + ((b.panelH : Int) - b.panelW)) := by
  simp [rotate]
  omega

/-- Settles O19: each rotation by its own rule; a panel on which rotation 3 undoes rotation 1 at the origin is square. -/
theorem rotationIsBijective : Obligations.RotationIsBijective := by
  refine fun b r => ⟨onCanvas_iff_inBounds_rotate b r, unrotate_rotate b r, rotate_unrotate b r, fun h => ?_, fun h p => ?_⟩
  · have h0 := congrArg Prod.snd (h (0, 0))
    rw [rotate_three_rotate_one] at h0
    simp only at h0
    omega
  · rw [rotate_three_rotate_one, h, sub_self, add_zero]

/-! ### One physical write -/

theorem touched_of_not_inBounds {b : Build} {q : Point} (h : inBounds b q = false) (m : Memory)
    (f : Nat → Nat → Byte → Byte) : touched b m q f = m := by
  simp [touched, h]

theorem read_touched_same {b : Build} {m : Memory} (hm : m.wf = true) {q : Point} (hq : inBounds b q = true)
    (f : Nat → Nat → Byte → Byte) :
    (touched b m q f).read (pixelIndex b q.1.toNat q.2.toNat) =
      f q.1.toNat q.2.toNat (m.read (pixelIndex b q.1.toNat q.2.toNat)) := by
  rw [touched, if_pos hq, Memory.read_write_same hm]

/-- A physical write ends in a canonical framebuffer; it changes the pixel's byte as asked and no other (R62, R68, R137). -/
theorem writePhysWith_spec {b : Build} {m : Memory} (hm : m.wf = true) (hb : m.below b.fbLen = true) (q : Point)
    (f : Nat → Nat → Byte → Byte) :
    ∃ m', writePhysWith b m q f = .ok m' ∧ m'.wf = true ∧ m'.below b.fbLen = true ∧
      (inBounds b q = false → m' = m) ∧
      (∀ a, (inBounds b q = true → a ≠ pixelIndex b q.1.toNat q.2.toNat) → m'.read a = m.read a) ∧
      (inBounds b q = true → m'.read (pixelIndex b q.1.toNat q.2.toNat) =
        f q.1.toNat q.2.toNat (m.read (pixelIndex b q.1.toNat q.2.toNat))) :=
  ⟨touched b m q f, writePhysWith_eq b m q f, wf_touched hm q f, below_touched hb q f,
    fun hq => touched_of_not_inBounds hq m f, fun _ => read_touched_ne m f, fun hq => read_touched_same hm hq f⟩

/-- A level write sets the pixel's two bits and keeps the other six (R134, R137). -/
theorem getLsbD_putLevel (x y : Nat) (g v : Byte) {k : Nat} (hk : k < 8) :
    (putLevel x y g v).getLsbD k =
      if k = bitA x y then g.getLsbD 1 else if k = bitB x y then g.getLsbD 0 else v.getLsbD k := by
  rw [putLevel, getLsbD_setBit _ _ _ (bitB_lt x y) k hk, getLsbD_setBit _ _ _ (bitA_lt x y) k hk]
  by_cases hA : k = bitA x y
  · simp [hA, bitA_ne_bitB]
  · simp [hA]

/-- A colour write sets the pixel's own bits to the colour and keeps the others (R137). -/
theorem getLsbD_putColour (vt : Variant) (x y : Nat) (c : Bool) (v : Byte) {k : Nat} (hk : k < 8) :
    (putColour vt x y c v).getLsbD k = if k ∈ pixelBits vt x y then c else v.getLsbD k := by
  cases vt with
  | mono1 =>
    simp only [putColour, pixelBits, List.mem_singleton, getLsbD_setBit _ _ _ (monoBit_lt x y) k hk]
  | gray2 =>
    simp only [putColour, pixelBits, getLsbD_setBit _ _ _ (bitB_lt x y) k hk, getLsbD_setBit _ _ _ (bitA_lt x y) k hk]
    simp only [List.mem_pair, or_comm (a := k = bitA x y), ite_or]

/-- Settles O20: the frame is `writePhysWith_spec`, and the bits of the byte those of `putColour` and `putLevel`. -/
theorem physicalWriteOwnsItsBits : Obligations.PhysicalWriteOwnsItsBits := by
  refine fun b m q hm hb => ⟨fun c => ?colour, fun g _ => ?level⟩
  case colour =>
    obtain ⟨m', hwrite, hwf, hbelow, hout, hframe, hbyte⟩ := writePhysWith_spec hm hb q fun x y => putColour b.variant x y c
    refine ⟨m', hwrite, hwf, hbelow, hout, hframe, fun hq k hk => ?_⟩
    rw [hbyte hq, getLsbD_putColour _ _ _ _ _ hk]
  case level =>
    obtain ⟨m', hwrite, hwf, hbelow, hout, hframe, hbyte⟩ := writePhysWith_spec hm hb q fun x y => putLevel x y g
    refine ⟨m', hwrite, hwf, hbelow, hout, hframe, fun hq k hk => ?_⟩
    rw [hbyte hq, getLsbD_putLevel _ _ _ _ hk]

/-! ### The pixel operations -/

theorem halfBytes_eq (v : Half) : halfBytes v = [v.setWidth 8, (v >>> 8).setWidth 8] := by
  rfl

theorem exec_plotRaw (x y : Half) (cb : Byte) (s : State) :
    exec (.plotRaw x y cb) s = .next { s with
      fb := touched s.build s.fb (point x y) fun px py => putColour s.build.variant px py (colour cb), seq := .idle } := by
  rw [exec, execPlotRaw, writePhys_eq]
  rfl

theorem exec_drawPixel (x y : Half) (cb : Byte) (s : State) :
    exec (.drawPixel x y cb) s = .next { s with
      fb := touched s.build s.fb (rotate s.build s.rot (point x y)) fun px py => putColour s.build.variant px py (colour cb)
      seq := .idle } := by
  rw [exec, execDrawPixel, plot_eq]
  rfl

theorem exec_drawPixelGray (x y : Half) {g : Byte} {s : State} (hv : s.build.variant = .gray2) (hg : g.toNat ≤ 3) :
    exec (.drawPixelGray x y g) s = .next { s with
      fb := touched s.build s.fb (rotate s.build s.rot (point x y)) fun px py => putLevel px py g
      seq := .idle } := by
  simp only [exec, execDrawPixelGray, hv, if_neg (Nat.not_lt.2 hg), plotGray_eq]
  rfl

/-- READ_PIXEL always completes, with the pixel's value or the sentinel in RESULT (R146). -/
theorem exec_readPixel (x y : Half) (s : State) :
    exec (.readPixel x y) s = .next { s with
      result := if inBounds s.build (rotate s.build s.rot (point x y)) = true then
          BitVec.ofNat 32 (pixelAt s.build s.fb (rotate s.build s.rot (point x y)))
        else 0xFFFFFFFF
      seq := .idle } := by
  rw [exec, execReadPixel, readLogical_eq]
  rfl

/-- Settles O21: `touched` at the point itself. -/
theorem plotRawResult : Obligations.PlotRawResult := by
  intro x y cb s hs
  refine ⟨by simp [encode, halfBytes_eq], _, exec_plotRaw x y cb s, hs.touched _ _, fun q hq => ?pixel, fun a ha => ?byte⟩
  case pixel => exact pixelAt_touched_colour hs.1 _ hq
  case byte => exact read_touched_ne s.fb _ ha

/-- A colour write at the rotated point paints that point alone. -/
theorem painted_touched {s : State} (hs : FbCanonical s) (p : Point) (c : Bool) :
    Painted s [p] c (touched s.build s.fb (rotate s.build s.rot p) fun px py => putColour s.build.variant px py c) := by
  refine ⟨hs.touched _ _, fun q hq => ?pixel, fun a ha => ?byte⟩
  case pixel =>
    have hmem : (∃ p' ∈ [p], rotate s.build s.rot p' = q) ↔ q = rotate s.build s.rot p := by simp [eq_comm]
    rw [pixelAt_touched_colour hs.1 c hq, hmem]
    exact ⟨fun h => if_pos h, fun h => if_neg h⟩
  case byte => exact read_touched_ne s.fb _ (ha p (List.mem_singleton_self p))

/-- Settles O22: `painted_touched` for the operand's point. -/
theorem drawPixelResult : Obligations.DrawPixelResult := fun x y cb =>
  ⟨by simp [encode, halfBytes_eq], fun s hs => ⟨_, exec_drawPixel x y cb s, painted_touched hs _ _⟩⟩

/-- Settles O25: `exec_readPixel`, which holds in every state since the address decoder never leaves the framebuffer. -/
theorem readPixelResult : Obligations.ReadPixelResult := fun x y s =>
  ⟨by simp [encode, halfBytes_eq], exec_readPixel x y s⟩

/-- Settles O26: the filled memory, which is canonical whatever was there before. -/
theorem fillResult : Obligations.FillResult := by
  intro a s
  refine ⟨rfl, _, rfl, ⟨Memory.wf_filled _ _, Memory.below_filled _ _⟩, fun k hk => ?_⟩
  rw [State.setFb_fb, Memory.read_filled, if_pos hk]

/-- Settles O27: keeping two bits is masking with 3. -/
theorem setRotResult : Obligations.SetRotResult := by
  intro a s
  refine ⟨rfl, a.setWidth 2, rfl, ?_⟩
  rw [BitVec.toNat_setWidth, BitVec.toNat_and]
  exact (Nat.and_two_pow_sub_one_eq_mod a.toNat 2).symm

/-! ### Reading back -/

theorem pixelValue_le (v : Variant) (x y : Nat) (c : Byte) : pixelValue v x y c ≤ 3 := by
  cases v with
  | mono1 => exact (Bool.toNat_le _).trans (by omega)
  | gray2 =>
    have hA := Bool.toNat_le (c.getLsbD (bitA x y))
    have hB := Bool.toNat_le (c.getLsbD (bitB x y))
    simp only [pixelValue]
    omega

/-- READ_PIXEL of a canvas point leaves the pixel's value in RESULT: it is a pixel of the panel, and its value fits (R139, R146). -/
theorem exec_readPixel_onCanvas {x y : Half} {s : State} (h : onCanvas s.build s.rot (point x y)) :
    ∃ t, exec (.readPixel x y) s = .next t ∧
      t.result.toNat = pixelAt s.build s.fb (rotate s.build s.rot (point x y)) := by
  refine ⟨_, exec_readPixel x y s, ?_⟩
  rw [if_pos ((onCanvas_iff_inBounds_rotate _ _ _).1 h), BitVec.toNat_ofNat, Nat.mod_eq_of_lt]
  exact (pixelValue_le ..).trans_lt (by omega)

/-- A level up to 3 is its two low bits. -/
theorem levelBits_eq {g : Byte} (h : g.toNat ≤ 3) : 2 * (g.getLsbD 1).toNat + (g.getLsbD 0).toNat = g.toNat := by
  rw [BitVec.getLsbD, BitVec.getLsbD, Nat.toNat_testBit, Nat.toNat_testBit]
  omega

theorem drawPixel_readsBack {x y : Half} {s : State} (hs : FbCanonical s) (h : onCanvas s.build s.rot (point x y))
    (cb : Byte) :
    ∃ s2 s3, exec (.drawPixel x y cb) s = .next s2 ∧ exec (.readPixel x y) s2 = .next s3 ∧
      s3.result.toNat = colourValue s.build.variant (colour cb) := by
  have hin := (onCanvas_iff_inBounds_rotate _ _ _).1 h
  obtain ⟨s3, hread, hresult⟩ := exec_readPixel_onCanvas (s := { s with
    fb := touched s.build s.fb (rotate s.build s.rot (point x y)) fun px py => putColour s.build.variant px py (colour cb)
    seq := .idle }) h
  refine ⟨_, s3, exec_drawPixel x y cb s, hread, ?_⟩
  rw [hresult, pixelAt_touched_colour hs.1 _ hin, if_pos rfl]

theorem drawPixelGray_readsBack {x y : Half} {s : State} (hs : FbCanonical s) (h : onCanvas s.build s.rot (point x y))
    {g : Byte} (hv : s.build.variant = .gray2) (hg : g.toNat ≤ 3) :
    ∃ s2 s3, exec (.drawPixelGray x y g) s = .next s2 ∧ exec (.readPixel x y) s2 = .next s3 ∧
      s3.result.toNat = g.toNat := by
  have hin := (onCanvas_iff_inBounds_rotate _ _ _).1 h
  obtain ⟨s3, hread, hresult⟩ := exec_readPixel_onCanvas (s := { s with
    fb := touched s.build s.fb (rotate s.build s.rot (point x y)) fun px py => putLevel px py g
    seq := .idle }) h
  refine ⟨_, s3, exec_drawPixelGray x y hv hg, hread, ?_⟩
  rw [hresult, pixelAt_touched_level hs.1 hv g hin, if_pos rfl, levelBits_eq hg]

/-- Settles O28: a pixel reads back what was drawn under any rotation, so under the one SET_ROT left. -/
theorem drawnPixelReadsBack : Obligations.DrawnPixelReadsBack := by
  intro a x y s hs
  have hs1 : FbCanonical (s.setRot (a.setWidth 2)).commit := hs
  exact ⟨_, rfl, fun hcanvas => ⟨drawPixel_readsBack hs1 hcanvas, fun g => drawPixelGray_readsBack hs1 hcanvas⟩⟩

theorem pixelValue_zero (v : Variant) (x y : Nat) : pixelValue v x y 0x00 = 0 := by
  cases v <;> simp [pixelValue]

theorem pixelValue_allOnes (v : Variant) (x y : Nat) : pixelValue v x y (BitVec.allOnes 8) = colourValue v true := by
  cases v <;> simp only [pixelValue, colourValue, BitVec.getLsbD_allOnes, monoBit_lt, bitA_lt, bitB_lt] <;> rfl

/-- Every pixel of a filled framebuffer has the value the fill byte gives it (R147). -/
theorem pixelAt_filled {b : Build} {q : Point} (h : inBounds b q = true) (a : Byte) :
    pixelAt b (Memory.filled b.fbLen a) q = pixelValue b.variant q.1.toNat q.2.toNat a := by
  rw [pixelAt, Memory.read_filled, if_pos (pixelIndex_lt h)]

theorem fill_readsBack {x y : Half} {s : State} (h : onCanvas s.build s.rot (point x y)) (a : Byte) :
    ∃ s1 s2, exec (.fill a) s = .next s1 ∧ exec (.readPixel x y) s1 = .next s2 ∧
      s2.result.toNat = pixelValue s.build.variant (rotate s.build s.rot (point x y)).1.toNat
        (rotate s.build s.rot (point x y)).2.toNat a := by
  obtain ⟨s2, hread, hresult⟩ :=
    exec_readPixel_onCanvas (s := (s.setFb (Memory.filled s.build.fbLen a)).commit) h
  exact ⟨_, s2, rfl, hread, hresult.trans (pixelAt_filled ((onCanvas_iff_inBounds_rotate _ _ _).1 h) a)⟩

/-- Settles O29: `fill_readsBack` for the two bytes, whose bits are all 0 and all 1. -/
theorem filledPixelsReadBack : Obligations.FilledPixelsReadBack := by
  intro x y s h
  refine ⟨?off, ?on⟩
  case off =>
    obtain ⟨s1, s2, hfill, hread, hresult⟩ := fill_readsBack h 0x00
    exact ⟨s1, s2, hfill, hread, BitVec.eq_of_toNat_eq (hresult.trans (pixelValue_zero ..))⟩
  case on =>
    obtain ⟨s1, s2, hfill, hread, hresult⟩ := fill_readsBack h 0xFF
    exact ⟨s1, s2, hfill, hread, hresult.trans (pixelValue_allOnes ..)⟩

end Sys2Proof.Machine
end

section
/-!
PROOFS. The protocol (41_protocol.md): what NOP and CLEAR_ERR do, and what a longer packet of either is (rules R189, R190).
-/

namespace Sys2Proof.Machine

/-! ### Housekeeping -/

/-- A packet of an operation without operands is its opcode alone: with a byte more it does not decode, overflowed or not (R106, R107). -/
theorem decode_of_trailing_byte {v : Variant} {op : Byte} {row : OpRow} (hrow : opRow op = some row) (hformat : row.format = .z)
    (hop : op ≠ 0x12) (b : Byte) (rest : List Byte) (povf : Bool) :
    decode v (op :: b :: rest) povf = .error .badLength := by
  have hlen : row.format.length (op :: b :: rest) ≠ some ((b :: rest).length + 1) := by
    simp [hformat, Format.length]
  rw [decode_of_opRow hrow fun h => hop h.1, if_neg fun h => hlen h.2]

theorem decode_housekeeping_of_trailing_byte {op : Byte} (hop : op ∈ ([0x00, 0x01] : List Byte)) (v : Variant) (b : Byte)
    (rest : List Byte) (povf : Bool) :
    decode v (op :: b :: rest) povf = .error .badLength := by
  obtain rfl | rfl := List.mem_pair.1 hop
  case inl => exact decode_of_trailing_byte (row := ⟨0x00, "NOP", .z, fun _ => .nop⟩) rfl rfl (by decide) b rest povf
  case inr => exact decode_of_trailing_byte (row := ⟨0x01, "CLEAR_ERR", .z, fun _ => .clearErr⟩) rfl rfl (by decide) b rest povf

/-- Settles O17: the two operations by their definitions, and a longer packet is one that does not decode, so that its turn only
records. -/
theorem housekeepingResults : Obligations.HousekeepingResults := by
  refine ⟨fun s => ⟨rfl, rfl⟩, fun v => ⟨rfl, rfl⟩, fun s op b rest povf k f hop hin hseq => ?longer⟩
  case longer =>
    have hdec := decode_housekeeping_of_trailing_byte hop s.build.variant b rest povf
    rw [step_of_no_input hin, sequencerTurn_of_decode_error hseq hdec, raise_eq]

end Sys2Proof.Machine
end

section
/-!
PROOFS. The rasterizer (42_rasterizer.md): every operation paints its points (rule R220), the circle's symmetries and box (rule R230),
the crossings of a row (rule R234), the filled triangle (rule R238).
-/

namespace Sys2Proof.Machine

/-! ### Drawing a list of points -/

/-- Plots that all have one colour paint their points (R220). -/
theorem painted_plotted {s : State} (hs : FbCanonical s) (ps : List Point) (c : Bool) :
    Painted s ps c (plotted s.build s.rot s.fb (ps.map fun p => (p, c))) := by
  refine ⟨hs.plotted _ _, fun q hq => ?pixel, fun a ha => ?byte⟩
  case pixel =>
    rw [pixelAt_plotted_same hq ps hs.1]
    exact ⟨fun h => if_pos h, fun h => if_neg h⟩
  case byte => exact read_plotted_ne _ _ (List.forall_mem_map.2 ha)

theorem paintsPoints_of_drawPoints {i : Instr} {ps : List Point} {cb : Byte} (h : ∀ s, exec i s = drawPoints s ps cb) :
    PaintsPoints i ps cb := fun s hs =>
  ⟨_, (h s).trans (drawPoints_eq s ps cb), painted_plotted hs ps _⟩

/-- Settles O30: each of the seven meanings is `drawPoints` of the operation's point list. -/
theorem rasterizerPaintsItsPoints : Obligations.RasterizerPaintsItsPoints := fun _ _ _ _ _ _ _ _ =>
  ⟨paintsPoints_of_drawPoints fun _ => rfl, paintsPoints_of_drawPoints fun _ => rfl, paintsPoints_of_drawPoints fun _ => rfl,
    paintsPoints_of_drawPoints fun _ => rfl, paintsPoints_of_drawPoints fun _ => rfl, paintsPoints_of_drawPoints fun _ => rfl,
    paintsPoints_of_drawPoints fun _ => rfl⟩

/-! ### Circles -/

/-- The steps from (x, y) stay in the octant: right of x, below y, and not past the diagonal (R227). -/
theorem mem_circleWalk_bounds {p : Point} {n : Nat} {x y d : Int} (h : p ∈ circleWalk n x y d) :
    x ≤ p.1 ∧ p.1 ≤ p.2 ∧ p.2 ≤ y := by
  induction n generalizing x y d with
  | zero => cases h
  | succ n ih =>
    rw [circleWalk] at h
    split at h
    case isFalse => cases h
    case isTrue hxy =>
      obtain rfl | hrest := List.mem_cons.1 h
      · exact ⟨le_rfl, hxy, le_rfl⟩
      · split at hrest
        all_goals
          obtain ⟨hx, hle, hy⟩ := ih hrest
          omega

theorem mem_circleSteps_bounds {p : Point} {r : Nat} (h : p ∈ circleSteps r) : 0 ≤ p.1 ∧ p.1 ≤ p.2 ∧ p.2 ≤ r :=
  mem_circleWalk_bounds h

theorem axis_mem_circleSteps (r : Nat) : ((0, r) : Point) ∈ circleSteps r := by
  simp [circleSteps, circleWalk]

theorem circleSteps_zero : circleSteps 0 = [(0, 0)] := by
  decide

/-- The eight points of a step are all those whose distances from the centre's axes are the step's, in either order (R228). -/
theorem mem_octants_iff {c p : Point} (u v : Int) (h1 : 0 ≤ p.1) (h2 : 0 ≤ p.2) :
    (c.1 + u, c.2 + v) ∈ octants c p ↔ |u| = p.1 ∧ |v| = p.2 ∨ |u| = p.2 ∧ |v| = p.1 := by
  simp only [octants, List.mem_cons, List.not_mem_nil, or_false, Prod.mk.injEq, abs_eq h1, abs_eq h2]
  omega

theorem mem_circlePoints_iff {c : Point} {r : Nat} (u v : Int) :
    (c.1 + u, c.2 + v) ∈ circlePoints c r ↔
      ∃ p ∈ circleSteps r, |u| = p.1 ∧ |v| = p.2 ∨ |u| = p.2 ∧ |v| = p.1 := by
  rw [circlePoints, List.mem_flatMap]
  refine exists_congr fun p => and_congr_right fun hp => ?_
  obtain ⟨hx, hxy, -⟩ := mem_circleSteps_bounds hp
  exact mem_octants_iff u v hx (hx.trans hxy)

theorem mem_circlePoints_congr {c : Point} {r : Nat} {u v u' v' : Int}
    (h : |u'| = |u| ∧ |v'| = |v| ∨ |u'| = |v| ∧ |v'| = |u|) :
    (c.1 + u', c.2 + v') ∈ circlePoints c r ↔ (c.1 + u, c.2 + v) ∈ circlePoints c r := by
  rw [mem_circlePoints_iff, mem_circlePoints_iff]
  refine exists_congr fun p => and_congr_right fun _ => ?_
  omega

theorem mem_circlePoints_zero_iff {c u : Point} : u ∈ circlePoints c 0 ↔ u = c := by
  simp [circlePoints, circleSteps_zero, octants]

theorem circlePoints_in_box {c u : Point} {r : Nat} (h : u ∈ circlePoints c r) : |u.1 - c.1| ≤ r ∧ |u.2 - c.2| ≤ r := by
  rw [← Prod.mk.eta (p := u), ← add_sub_cancel c.1 u.1, ← add_sub_cancel c.2 u.2, mem_circlePoints_iff] at h
  obtain ⟨p, hp, hdist⟩ := h
  obtain ⟨hx, hxy, hy⟩ := mem_circleSteps_bounds hp
  omega

theorem axis_mem_circlePoints {c : Point} {r : Nat} {u v : Int} (h : |u| = r ∧ v = 0 ∨ u = 0 ∧ |v| = r) :
    (c.1 + u, c.2 + v) ∈ circlePoints c r := by
  refine (mem_circlePoints_iff u v).2 ⟨_, axis_mem_circleSteps r, ?_⟩
  obtain ⟨hu, rfl⟩ | ⟨rfl, hv⟩ := h
  · exact .inr ⟨hu, abs_zero⟩
  · exact .inl ⟨abs_zero, hv⟩

/-- Settles O36: whether a point is on the circle depends on its two distances from the centre's axes alone
(`mem_circlePoints_iff`). -/
theorem circleIsSymmetricInItsBox : Obligations.CircleIsSymmetricInItsBox := by
  intro c r
  refine ⟨fun u => mem_circlePoints_zero_iff, fun u v h => ?symmetric, fun u => circlePoints_in_box, ?right, ?left, ?up, ?down⟩
  case symmetric =>
    simp only [sub_eq_add_neg]
    refine ⟨?_, ?_, ?_, ?_, ?_, ?_, ?_⟩
    all_goals exact (mem_circlePoints_congr (by simp)).2 h
  case right => simpa using axis_mem_circlePoints (c := c) (r := r) (u := r) (v := 0) (by simp)
  case left => simpa [sub_eq_add_neg] using axis_mem_circlePoints (c := c) (r := r) (u := -r) (v := 0) (by simp)
  case up => simpa using axis_mem_circlePoints (c := c) (r := r) (u := 0) (v := r) (by simp)
  case down => simpa [sub_eq_add_neg] using axis_mem_circlePoints (c := c) (r := r) (u := 0) (v := -r) (by simp)

/-! ### Crossings of a row -/

/-- An edge crosses a row exactly when the row separates its endpoints (R234). -/
theorem crosses_eq_xor (p q : Point) (y : Int) : crosses p q y = (decide (p.2 ≤ y) ^^ decide (q.2 ≤ y)) := by
  rw [Bool.eq_iff_iff, crosses, decide_eq_true_iff, bne_iff_ne, Ne, decide_eq_decide]
  omega

theorem crosses_comm (p q : Point) (y : Int) : crosses p q y = crosses q p y := by
  rw [crosses_eq_xor, crosses_eq_xor, Bool.xor_comm]

/-- A row separates the ends of two joined edges when it separates those of exactly one of them. -/
theorem crosses_eq_xor_via (p q w : Point) (y : Int) : crosses p w y = (crosses p q y ^^ crosses q w y) := by
  rw [crosses_eq_xor p q, crosses_eq_xor q w, Bool.xor_assoc, ← Bool.xor_assoc (decide (q.2 ≤ y)), Bool.xor_self,
    Bool.false_xor, crosses_eq_xor]

theorem crosses_iff {lo hi : Point} (h : lo.2 ≤ hi.2) (y : Int) : crosses lo hi y = true ↔ lo.2 ≤ y ∧ y < hi.2 := by
  rw [crosses, decide_eq_true_iff, min_eq_left h, max_eq_right h]

/-- Along a path the number of edges that cross a row is odd exactly when the row separates the path's ends. -/
theorem countP_crosses_path_mod_two (y : Int) (ws : List Point) (a z : Point) :
    ((a :: ws).zip (ws ++ [z])).countP (fun e => crosses e.1 e.2 y) % 2 = (crosses a z y).toNat := by
  induction ws generalizing a with
  | nil => cases h : crosses a z y <;> simp [h]
  | cons b ws ih =>
    rw [List.cons_append, List.zip_cons_cons, List.countP_cons, Nat.add_mod, ih b, crosses_eq_xor_via a b z]
    cases crosses a b y <;> cases crosses b z y <;> rfl

theorem crossings_length (vs : List Point) (y : Int) :
    (crossings vs y).length = (edges vs).countP fun e => crosses e.1 e.2 y := by
  rw [crossings, List.length_map, List.countP_eq_length_filter]

theorem crossings_length_even (vs : List Point) (y : Int) : (crossings vs y).length % 2 = 0 := by
  cases vs with
  | nil => rfl
  | cons v ws =>
    rw [crossings_length]
    refine (countP_crosses_path_mod_two y ws v v).trans ?_
    rw [crosses_eq_xor, Bool.xor_self, Bool.toNat_false]

/-- Settles O38: a closed polygon is a path from its first vertex to itself, which no row separates. -/
theorem polygonCrossingsAreEven : Obligations.PolygonCrossingsAreEven := by
  refine ⟨fun lo hi y h => ⟨crosses_iff h y, ?reversed, fun heq => ?horizontal⟩, crossings_length_even⟩
  case reversed => rw [crosses_comm, crosses_iff h]
  case horizontal => rw [crosses_eq_xor, heq, Bool.xor_self]

end Sys2Proof.Machine
end

section
/-!
PROOFS. The filled triangle (42_rasterizer.md rules R222, R224, R231 to R238): lines and scanned rows stay in the box of their ends,
and neither depends on the order of the vertices.
-/

namespace Sys2Proof.Machine

/-! ### Lines -/

/-- A point of R222's loop given by its driving and its other coordinate. -/
def unsteep (steep : Bool) (x y : Int) : Point := if steep then (y, x) else (x, y)

/-- What R222's loop keeps before each of its last `n` rounds, with `m` steps left on the other axis: the error term is not negative,
and the steps left are those that the rounds left will take. -/
def LineInv (dx dy err m : Int) (n : Nat) : Prop := 0 ≤ err ∧ 0 ≤ m ∧ err + m * dx = dx / 2 + (n - 1) * dy

theorem LineInv.next_same {dx dy err m : Int} {n : Nat} (h : LineInv dx dy err m (n + 1)) (herr : ¬ err - dy < 0) :
    LineInv dx dy (err - dy) m n := by
  obtain ⟨_, hm, hsum⟩ := h
  refine ⟨not_lt.1 herr, hm, ?_⟩
  push_cast at hsum
  linarith

theorem LineInv.next_step {dx dy err m : Int} {n : Nat} (hle : dy ≤ dx) (hn : 0 < n) (h : LineInv dx dy err m (n + 1))
    (herr : err - dy < 0) : LineInv dx dy (err - dy + dx) (m - 1) n := by
  obtain ⟨hpos, hm, hsum⟩ := h
  push_cast at hsum
  have hn' : (1 : Int) ≤ n := by exact_mod_cast hn
  have hrounds : 0 ≤ ((n : Int) - 1) * dy := mul_nonneg (by omega) (by omega)
  refine ⟨by omega, ?steps, by linarith⟩
  case steps =>
    have hm0 : m ≠ 0 := by
      rintro rfl
      linarith [show 0 ≤ dx / 2 by omega]
    omega

/-- Each point of the loop is in the box of the columns and the steps left. -/
theorem mem_lineWalk_box {steep : Bool} {dx dy ystep : Int} (hle : dy ≤ dx) {u : Point} {n : Nat} {x y err m : Int}
    (hinv : LineInv dx dy err m n) (hu : u ∈ lineWalk steep dx dy ystep n x y err) :
    ∃ i j : Int, 0 ≤ i ∧ i < n ∧ 0 ≤ j ∧ j ≤ m ∧ u = unsteep steep (x + i) (y + ystep * j) := by
  induction n generalizing x y err m with
  | zero => cases hu
  | succ n ih =>
    obtain rfl | hrest := List.mem_cons.1 hu
    · obtain ⟨-, hm, -⟩ := hinv
      exact ⟨0, 0, le_rfl, by omega, le_rfl, hm, by rw [add_zero, mul_zero, add_zero, unsteep]⟩
    · split at hrest
      case isTrue herr =>
        have hn : 0 < n := Nat.pos_of_ne_zero fun h => by subst h; cases hrest
        obtain ⟨i, j, hi, hin, hj, hjm, rfl⟩ := ih (hinv.next_step hle hn herr) hrest
        exact ⟨i + 1, j + 1, by omega, by omega, by omega, by omega, by congr 1 <;> ring⟩
      case isFalse herr =>
        obtain ⟨i, j, hi, hin, hj, hjm, rfl⟩ := ih (hinv.next_same herr) hrest
        exact ⟨i + 1, j, by omega, by omega, hj, hjm, by congr 1; ring⟩

/-- A line that runs left to right stays in the box of its ends. -/
theorem mem_lineRight_box {steep : Bool} {x0 y0 x1 y1 : Int} (hx : x0 ≤ x1) (hy : |y1 - y0| ≤ x1 - x0) {u : Point}
    (hu : u ∈ lineRight steep x0 y0 x1 y1) : ∃ x y, Between x0 x1 x ∧ Between y0 y1 y ∧ u = unsteep steep x y := by
  have hn : ((x1 - x0 + 1).toNat : Int) = x1 - x0 + 1 := Int.toNat_of_nonneg (by omega)
  have hinv : LineInv (x1 - x0) |y1 - y0| ((x1 - x0) / 2) |y1 - y0| (x1 - x0 + 1).toNat := by
    refine ⟨by omega, abs_nonneg _, ?_⟩
    rw [hn]
    ring
  obtain ⟨i, j, hi, hin, hj, hjm, rfl⟩ := mem_lineWalk_box hy hinv hu
  refine ⟨_, _, ?_, ?_, rfl⟩
  · unfold Between
    omega
  · rw [abs_eq_max_neg] at hjm
    unfold Between
    split <;> omega

theorem between_comm {a b z : Int} : Between a b z ↔ Between b a z := by
  rw [Between, Between, min_comm, max_comm]

theorem mem_lineOrdered_box {steep : Bool} {x0 y0 x1 y1 : Int} (hy : |y1 - y0| ≤ |x1 - x0|) {u : Point}
    (hu : u ∈ lineOrdered steep x0 y0 x1 y1) : ∃ x y, Between x0 x1 x ∧ Between y0 y1 y ∧ u = unsteep steep x y := by
  rw [lineOrdered] at hu
  rw [abs_eq_max_neg (a := x1 - x0)] at hy
  split at hu
  case isTrue h =>
    obtain ⟨x, y, hbx, hby, rfl⟩ := mem_lineRight_box h.le (by rw [abs_sub_comm]; omega) hu
    exact ⟨x, y, between_comm.1 hbx, between_comm.1 hby, rfl⟩
  case isFalse h => exact mem_lineRight_box (by omega) (by omega) hu

theorem linePoints_in_box {p q u : Point} (hu : u ∈ linePoints p q) : Between p.1 q.1 u.1 ∧ Between p.2 q.2 u.2 := by
  rw [linePoints] at hu
  split at hu
  case isTrue h =>
    obtain ⟨x, y, hx, hy, rfl⟩ := mem_lineOrdered_box h.le hu
    exact ⟨hy, hx⟩
  case isFalse h =>
    obtain ⟨x, y, hx, hy, rfl⟩ := mem_lineOrdered_box (not_lt.1 h) hu
    exact ⟨hx, hy⟩

/-- The endpoint swap makes a line the same list from either end (R224 (b)). -/
theorem lineOrdered_comm {steep : Bool} {x0 y0 x1 y1 : Int} (h : |y1 - y0| ≤ |x1 - x0|) :
    lineOrdered steep x0 y0 x1 y1 = lineOrdered steep x1 y1 x0 y0 := by
  obtain hlt | rfl | hgt := lt_trichotomy x0 x1
  · rw [lineOrdered, lineOrdered, if_neg hlt.not_gt, if_pos hlt]
  · rw [sub_self, abs_zero, abs_nonpos_iff, sub_eq_zero] at h
    rw [h]
  · rw [lineOrdered, lineOrdered, if_pos hgt, if_neg hgt.not_gt]

theorem linePoints_comm (p q : Point) : linePoints p q = linePoints q p := by
  rw [linePoints, linePoints, abs_sub_comm p.1, abs_sub_comm p.2]
  split
  case isTrue h => exact lineOrdered_comm h.le
  case isFalse h => exact lineOrdered_comm (not_lt.1 h)

/-! ### Where an edge meets a row -/

theorem tdiv_mul_le {t d w : Int} (ht : 0 ≤ t) (htd : t < d) (hw : 0 ≤ w) : 0 ≤ (t * w).tdiv d ∧ (t * w).tdiv d ≤ w := by
  have htw : 0 ≤ t * w := mul_nonneg ht hw
  refine ⟨Int.tdiv_nonneg htw (by omega), ?_⟩
  rw [Int.tdiv_eq_ediv_of_nonneg htw]
  refine Int.ediv_le_of_le_mul (by omega) ?_
  rw [mul_comm]
  exact mul_le_mul_of_nonneg_left htd.le hw

/-- A proper fraction of a signed width, rounded toward zero, is between 0 and the width. -/
theorem tdiv_mul_between {t d : Int} (ht : 0 ≤ t) (htd : t < d) (w : Int) : Between 0 w ((t * w).tdiv d) := by
  unfold Between
  obtain hw | hw := le_total 0 w
  · have := tdiv_mul_le ht htd hw
    omega
  · have := tdiv_mul_le ht htd (Int.neg_nonneg_of_nonpos hw)
    rw [mul_neg, Int.neg_tdiv] at this
    omega

/-- The row meets the edge between its endpoints (R236). -/
theorem xAtFrom_between {lo hi : Point} {y : Int} (h : lo.2 ≤ y ∧ y < hi.2) : Between lo.1 hi.1 (xAtFrom lo hi y) := by
  have := tdiv_mul_between (t := y - lo.2) (d := hi.2 - lo.2) (by omega) (by omega) (hi.1 - lo.1)
  unfold Between xAtFrom at *
  omega

theorem xAt_between {p q : Point} {y : Int} (h : crosses p q y = true) : Between p.1 q.1 (xAt p q y) := by
  rw [xAt]
  split
  case isTrue hqp =>
    rw [crosses_comm, crosses_iff hqp.le] at h
    exact between_comm.1 (xAtFrom_between h)
  case isFalse hpq =>
    rw [crosses_iff (not_lt.1 hpq)] at h
    exact xAtFrom_between h

/-- An edge that crosses a row is not horizontal, so its orientation by y is the same from either end (R236). -/
theorem xAt_comm {p q : Point} {y : Int} (h : crosses p q y = true) : xAt p q y = xAt q p y := by
  rw [crosses, decide_eq_true_iff] at h
  obtain hlt | hlt : p.2 < q.2 ∨ q.2 < p.2 := by omega
  · rw [xAt, xAt, if_neg hlt.not_gt, if_pos hlt]
  · rw [xAt, xAt, if_pos hlt, if_neg hlt.not_gt]

/-! ### A row of the scan -/

/-- What one edge adds to the x-intersections of a row (R232). -/
def edgeCrossing (p q : Point) (y : Int) : List Int := if crosses p q y then [xAt p q y] else []

theorem edgeCrossing_comm (p q : Point) (y : Int) : edgeCrossing p q y = edgeCrossing q p y := by
  rw [edgeCrossing, edgeCrossing, crosses_comm q p]
  split
  case isTrue h => rw [xAt_comm h]
  case isFalse => rfl

theorem mem_edgeCrossing_between {p q : Point} {x y : Int} (h : x ∈ edgeCrossing p q y) : Between p.1 q.1 x := by
  rw [edgeCrossing] at h
  split at h
  case isTrue hc =>
    rw [List.mem_singleton.1 h]
    exact xAt_between hc
  case isFalse => cases h

theorem crossings_eq_flatMap (vs : List Point) (y : Int) :
    crossings vs y = (edges vs).flatMap fun e => edgeCrossing e.1 e.2 y := by
  rw [crossings]
  induction edges vs with
  | nil => rfl
  | cons e es ih =>
    rw [List.flatMap_cons, ← ih, edgeCrossing]
    by_cases h : crosses e.1 e.2 y = true <;> simp [h]

theorem crossings_triangle (a b c : Point) (y : Int) :
    crossings [a, b, c] y = edgeCrossing a b y ++ edgeCrossing b c y ++ edgeCrossing c a y := by
  rw [crossings_eq_flatMap]
  simp [edges]

theorem insertRising_eq (x : Int) (xs : List Int) : insertRising x xs = xs.orderedInsert (· ≤ ·) x := by
  induction xs with
  | nil => rfl
  | cons z zs ih => rw [insertRising, List.orderedInsert_cons, ih]

theorem sortRising_eq (xs : List Int) : sortRising xs = xs.insertionSort (· ≤ ·) := by
  rw [sortRising, funext₂ insertRising_eq, List.insertionSort]

theorem mem_sortRising {x : Int} {xs : List Int} : x ∈ sortRising xs ↔ x ∈ xs := by
  rw [sortRising_eq, List.mem_insertionSort]

theorem sortRising_of_perm {xs ys : List Int} (h : xs.Perm ys) : sortRising xs = sortRising ys := by
  rw [sortRising_eq, sortRising_eq]
  exact List.Perm.eq_of_sortedLE List.sortedLE_insertionSort List.sortedLE_insertionSort
    ((List.perm_insertionSort _ xs).trans (h.trans (List.perm_insertionSort _ ys).symm))

/-- The range as a map over naturals; the definition elaborates to a list of integers first. -/
theorem intRange_eq_map (a b : Int) : intRange a b = (List.range (b - a + 1).toNat).map fun k : Nat => a + (k : Int) := by
  simp [intRange, List.map_eq_flatMap, List.flatMap_assoc]

theorem mem_intRange {a b z : Int} : z ∈ intRange a b ↔ a ≤ z ∧ z ≤ b := by
  rw [intRange_eq_map, List.mem_map]
  constructor
  · rintro ⟨k, hk, rfl⟩
    rw [List.mem_range] at hk
    omega
  · rintro ⟨ha, hb⟩
    exact ⟨(z - a).toNat, List.mem_range.2 (by omega), by omega⟩

theorem mem_hSpan {xa xb y : Int} {u : Point} : u ∈ hSpan xa xb y ↔ Between xa xb u.1 ∧ u.2 = y := by
  simp only [hSpan, List.mem_map, mem_intRange]
  constructor
  · rintro ⟨x, hx, rfl⟩
    exact ⟨hx, rfl⟩
  · rintro ⟨hx, rfl⟩
    exact ⟨u.1, hx, rfl⟩

/-- A row's spans are between its intersections (R235). -/
theorem mem_pairSpans {y : Int} {u : Point} {xs : List Int} (h : u ∈ pairSpans y xs) :
    u.2 = y ∧ ∃ xa ∈ xs, ∃ xb ∈ xs, Between xa xb u.1 := by
  fun_induction pairSpans y xs with
  | case1 xa xb rest ih =>
    obtain hspan | hrest := List.mem_append.1 h
    · obtain ⟨hx, hy⟩ := mem_hSpan.1 hspan
      exact ⟨hy, xa, by simp, xb, by simp, hx⟩
    · obtain ⟨hy, za, hza, zb, hzb, hx⟩ := ih hrest
      exact ⟨hy, za, by simp [hza], zb, by simp [hzb], hx⟩
  | case2 => cases h
  | case3 => cases h

/-! ### Triangles -/

theorem mem_trianglePoints {a b c u : Point} :
    u ∈ trianglePoints a b c ↔ u ∈ linePoints a b ∨ u ∈ linePoints b c ∨ u ∈ linePoints c a := by
  rw [trianglePoints, List.mem_append, List.mem_append, or_assoc]

/-- The scan of a triangle, row by row (R232, R233). -/
theorem mem_scanFill_triangle {a b c u : Point} :
    u ∈ scanFill [a, b, c] ↔ (min a.2 (min b.2 c.2) ≤ u.2 ∧ u.2 ≤ max a.2 (max b.2 c.2)) ∧
      u ∈ pairSpans u.2 (sortRising (crossings [a, b, c] u.2)) := by
  simp only [scanFill, List.map_cons, List.map_nil, List.mem_flatMap, mem_intRange, leastOf, greatestOf, List.foldl_cons,
    List.foldl_nil, min_assoc, max_assoc]
  constructor
  · rintro ⟨y, hrow, hu⟩
    obtain rfl := (mem_pairSpans hu).1
    exact ⟨hrow, hu⟩
  · rintro ⟨hrow, hu⟩
    exact ⟨u.2, hrow, hu⟩

theorem mem_fillTrianglePoints {a b c u : Point} :
    u ∈ fillTrianglePoints a b c ↔ u ∈ scanFill [a, b, c] ∨ u ∈ trianglePoints a b c := by
  rw [fillTrianglePoints, List.mem_append]

/-- The vertices' bounding box. -/
def InTriangleBox (a b c u : Point) : Prop :=
  min a.1 (min b.1 c.1) ≤ u.1 ∧ u.1 ≤ max a.1 (max b.1 c.1) ∧ min a.2 (min b.2 c.2) ≤ u.2 ∧ u.2 ≤ max a.2 (max b.2 c.2)

theorem trianglePoints_in_box {a b c u : Point} (h : u ∈ trianglePoints a b c) : InTriangleBox a b c u := by
  unfold InTriangleBox
  obtain h | h | h := mem_trianglePoints.1 h
  all_goals
    obtain ⟨hx, hy⟩ := linePoints_in_box h
    unfold Between at hx hy
    omega

theorem crossings_triangle_bounds {a b c : Point} {x y : Int} (h : x ∈ crossings [a, b, c] y) :
    min a.1 (min b.1 c.1) ≤ x ∧ x ≤ max a.1 (max b.1 c.1) := by
  rw [crossings_triangle, List.mem_append, List.mem_append] at h
  obtain (h | h) | h := h
  all_goals
    have hx := mem_edgeCrossing_between h
    unfold Between at hx
    omega

theorem scanFill_in_box {a b c u : Point} (h : u ∈ scanFill [a, b, c]) : InTriangleBox a b c u := by
  obtain ⟨hrow, hspan⟩ := mem_scanFill_triangle.1 h
  obtain ⟨-, xa, hxa, xb, hxb, hx⟩ := mem_pairSpans hspan
  have ha := crossings_triangle_bounds (mem_sortRising.1 hxa)
  have hb := crossings_triangle_bounds (mem_sortRising.1 hxb)
  unfold Between at hx
  exact ⟨by omega, by omega, hrow⟩

/-- The scan depends on the triangle's rows and, up to order, on each row's intersections. -/
theorem mem_scanFill_congr {a b c a' b' c' u : Point} (hmin : min a.2 (min b.2 c.2) = min a'.2 (min b'.2 c'.2))
    (hmax : max a.2 (max b.2 c.2) = max a'.2 (max b'.2 c'.2))
    (hperm : (crossings [a, b, c] u.2).Perm (crossings [a', b', c'] u.2)) :
    u ∈ scanFill [a, b, c] ↔ u ∈ scanFill [a', b', c'] := by
  rw [mem_scanFill_triangle, mem_scanFill_triangle, hmin, hmax, sortRising_of_perm hperm]

theorem crossings_swap_perm (a b c : Point) (y : Int) : (crossings [a, b, c] y).Perm (crossings [b, a, c] y) := by
  rw [crossings_triangle, crossings_triangle, edgeCrossing_comm b a, edgeCrossing_comm a c, edgeCrossing_comm c b,
    List.append_assoc, List.append_assoc]
  exact List.perm_append_comm.append_left _

theorem crossings_cycle_perm (a b c : Point) (y : Int) : (crossings [a, b, c] y).Perm (crossings [b, c, a] y) := by
  rw [crossings_triangle, crossings_triangle, List.append_assoc]
  exact List.perm_append_comm

theorem mem_fillTrianglePoints_swap {a b c u : Point} : u ∈ fillTrianglePoints a b c ↔ u ∈ fillTrianglePoints b a c := by
  rw [mem_fillTrianglePoints, mem_fillTrianglePoints, mem_trianglePoints, mem_trianglePoints, linePoints_comm b a,
    linePoints_comm a c, linePoints_comm c b, or_comm (a := u ∈ linePoints b c),
    mem_scanFill_congr (min_left_comm ..) (max_left_comm ..) (crossings_swap_perm a b c u.2)]

theorem mem_fillTrianglePoints_cycle {a b c u : Point} : u ∈ fillTrianglePoints a b c ↔ u ∈ fillTrianglePoints b c a := by
  rw [mem_fillTrianglePoints, mem_fillTrianglePoints, mem_trianglePoints, mem_trianglePoints,
    or_rotate (a := u ∈ linePoints a b),
    mem_scanFill_congr (by omega) (by omega) (crossings_cycle_perm a b c u.2)]

/-- Settles O39: the box holds every line and, since an edge meets a row between its endpoints, every span; the order of the vertices
changes neither the lines nor a row's sorted intersections. -/
theorem filledTriangleProperties : Obligations.FilledTriangleProperties := by
  refine fun a b c u => ⟨fun h => mem_fillTrianglePoints.2 (.inr h), fun h => ?box, mem_fillTrianglePoints_swap,
    mem_fillTrianglePoints_cycle⟩
  case box => exact (mem_fillTrianglePoints.1 h).elim scanFill_in_box trianglePoints_in_box

end Sys2Proof.Machine
end

section
/-!
PROOFS. Text (43_font.md): a list of plots paints the bits of its glyphs (rules R265, R266), the glyphs of a string (rule R267), and
STRING_WIDTH counts the characters in range (rule R268).
-/

namespace Sys2Proof.Machine

/-! ### Plots of two colours -/

/-- Plots that agree in colour on a pixel: it has the colour if one of them is there, and else keeps its value. -/
theorem pixelAt_plotted_of_agree {b : Build} {r : BitVec 2} {c : Bool} {q : Point} (hq : inBounds b q = true)
    {ps : List (Point × Bool)} {m : Memory} (hm : m.wf = true) (hagree : ∀ pc ∈ ps, rotate b r pc.1 = q → pc.2 = c) :
    pixelAt b (plotted b r m ps) q =
      if ∃ pc ∈ ps, rotate b r pc.1 = q then colourValue b.variant c else pixelAt b m q := by
  induction ps generalizing m with
  | nil => simp [plotted]
  | cons pc rest ih =>
    obtain ⟨p, d⟩ := pc
    obtain ⟨hp, hrest⟩ := List.forall_mem_cons.1 hagree
    rw [plotted, ih (wf_touched hm _ _) hrest, pixelAt_touched_colour hm d hq]
    by_cases hpq : rotate b r p = q
    · obtain rfl : d = c := hp hpq
      simp only [List.exists_mem_cons_iff, hpq, if_true, ite_self, true_or]
    · simp only [List.exists_mem_cons_iff, hpq, Ne.symm hpq, if_false, false_or]

theorem rotate_injective (b : Build) (r : BitVec 2) : Function.Injective (rotate b r) :=
  Function.LeftInverse.injective (unrotate_rotate b r)

/-! ### The plots of bits -/

/-- Which bits are plotted: each 1 bit, and with an opaque background each 0 bit (R265, R266). -/
def PlotsBit (bg : GlyphBg) (v : Bool) : Prop := v = true ∨ bg = .solid

/-- A 1 bit is plotted in the colour, a 0 bit in the opposite one (R265, R266). -/
theorem mem_bitPlots {bg : GlyphBg} {v c : Bool} {p : Point} {pc : Point × Bool} :
    pc ∈ bitPlots bg v p c ↔ PlotsBit bg v ∧ pc = (p, v == c) := by
  cases v with
  | true => simp [bitPlots, PlotsBit]
  | false => cases bg <;> simp [bitPlots, PlotsBit]

/-- The plots `ps` are those of the bits `bit`, each at its place `pos`, in the colour `c`. -/
def PlotsOfBits {ι : Type} (bg : GlyphBg) (bit : ι → Bool → Prop) (pos : ι → Point) (c : Bool) (ps : List (Point × Bool)) :
    Prop :=
  ∀ pc, pc ∈ ps ↔ ∃ t v, bit t v ∧ pc ∈ bitPlots bg v (pos t) c

/-- No place has bits of both values. -/
def OneBitPerPlace {ι : Type} (bit : ι → Bool → Prop) (pos : ι → Point) : Prop :=
  ∀ t t' v v', bit t v → bit t' v' → pos t = pos t' → v = v'

section
variable {ι : Type} {bg : GlyphBg} {bit : ι → Bool → Prop} {pos : ι → Point} {c : Bool} {ps : List (Point × Bool)}

theorem PlotsOfBits.mem_iff (h : PlotsOfBits bg bit pos c ps) {pc : Point × Bool} :
    pc ∈ ps ↔ ∃ t v, bit t v ∧ PlotsBit bg v ∧ pc = (pos t, v == c) := by
  simp only [h pc, mem_bitPlots]

/-- A pixel at the place of a plotted bit has that bit's colour. -/
theorem PlotsOfBits.pixelAt_of_bit (h : PlotsOfBits bg bit pos c ps) (hone : OneBitPerPlace bit pos) {b : Build} {r : BitVec 2}
    {m : Memory} (hm : m.wf = true) {q : Point} (hq : inBounds b q = true) {v : Bool} (hv : PlotsBit bg v)
    (hbit : ∃ t, bit t v ∧ rotate b r (pos t) = q) :
    pixelAt b (plotted b r m ps) q = colourValue b.variant (v == c) := by
  obtain ⟨t, ht, htq⟩ := hbit
  rw [pixelAt_plotted_of_agree (c := v == c) hq hm, if_pos ⟨_, h.mem_iff.2 ⟨t, v, ht, hv, rfl⟩, htq⟩]
  intro pc hpc hpq
  obtain ⟨t', v', ht', -, rfl⟩ := h.mem_iff.1 hpc
  rw [hone t t' v v' ht ht' (rotate_injective b r (htq.trans hpq.symm))]

/-- A pixel at the place of no plotted bit keeps its value. -/
theorem PlotsOfBits.pixelAt_of_no_bit (h : PlotsOfBits bg bit pos c ps) {b : Build} {r : BitVec 2} {m : Memory}
    (hm : m.wf = true) {q : Point} (hq : inBounds b q = true)
    (hnone : ∀ v, PlotsBit bg v → ¬ ∃ t, bit t v ∧ rotate b r (pos t) = q) :
    pixelAt b (plotted b r m ps) q = pixelAt b m q := by
  have hfree : ∀ pc ∈ ps, rotate b r pc.1 ≠ q := by
    intro pc hpc hpq
    obtain ⟨t, v, ht, hv, rfl⟩ := h.mem_iff.1 hpc
    exact hnone v hv ⟨t, ht, hpq⟩
  rw [pixelAt_plotted_of_agree (c := c) hq hm fun pc hpc hpq => absurd hpq (hfree pc hpc), if_neg]
  rintro ⟨pc, hpc, hpq⟩
  exact hfree pc hpc hpq

/-- What the plots of bits do to the framebuffer, pixel by pixel and byte by byte (R265, R266, R68). -/
theorem PlotsOfBits.paints (h : PlotsOfBits bg bit pos c ps) (hone : OneBitPerPlace bit pos) {s : State} (hs : FbCanonical s) :
    (∀ q, inBounds s.build q = true →
      ((∃ t, bit t true ∧ rotate s.build s.rot (pos t) = q) →
        pixelAt s.build (plotted s.build s.rot s.fb ps) q = colourValue s.build.variant c) ∧
      (bg = .solid → (∃ t, bit t false ∧ rotate s.build s.rot (pos t) = q) →
        pixelAt s.build (plotted s.build s.rot s.fb ps) q = colourValue s.build.variant !c) ∧
      ((¬ ∃ t, bit t true ∧ rotate s.build s.rot (pos t) = q) →
        (bg = .solid → ¬ ∃ t, bit t false ∧ rotate s.build s.rot (pos t) = q) →
        pixelAt s.build (plotted s.build s.rot s.fb ps) q = pixelAt s.build s.fb q)) ∧
    (∀ a, (∀ t v, bit t v → inBounds s.build (rotate s.build s.rot (pos t)) = true →
        a ≠ pixelIndex s.build (rotate s.build s.rot (pos t)).1.toNat (rotate s.build s.rot (pos t)).2.toNat) →
      (plotted s.build s.rot s.fb ps).read a = s.fb.read a) := by
  refine ⟨fun q hq => ⟨fun hbit => ?ones, fun hbg hbit => ?zeros, fun hones hzeros => ?others⟩, fun a ha => ?bytes⟩
  case ones => simpa using h.pixelAt_of_bit hone hs.1 hq (.inl rfl) hbit
  case zeros => simpa using h.pixelAt_of_bit hone hs.1 hq (.inr hbg) hbit
  case others =>
    refine h.pixelAt_of_no_bit hs.1 hq fun v hv => ?_
    cases v with
    | true => exact hones
    | false => exact hzeros (hv.resolve_left Bool.false_ne_true)
  case bytes =>
    refine read_plotted_ne ps s.fb fun pc hpc => ?_
    obtain ⟨t, v, ht, -, rfl⟩ := h.mem_iff.1 hpc
    exact ha t v ht

end

/-! ### One glyph -/

/-- Pixel `t` is a pixel of the glyph's cell and its bit is `v` (R260, R262, R263). -/
def GlyphCellBit (f : Font) (ch : Byte) (t : Nat × Nat) (v : Bool) : Prop :=
  t.1 < f.width ∧ t.2 < f.height ∧ glyphBit f (glyphSelect f ch) t.1 t.2 = .ok v

/-- The logical point of pixel `t` of a cell whose origin is `o` (R265). -/
def cellPoint (o : Point) (t : Nat × Nat) : Point := (o.1 + t.1, o.2 + t.2)

theorem cellPoint_injective (o : Point) : Function.Injective (cellPoint o) := by
  rintro ⟨i, j⟩ ⟨i', j'⟩ h
  simpa [cellPoint] using h

theorem GlyphCellBit.unique {f : Font} {ch : Byte} {t : Nat × Nat} {v v' : Bool} (h : GlyphCellBit f ch t v)
    (h' : GlyphCellBit f ch t v') : v = v' := by
  obtain ⟨-, -, hbit⟩ := h
  obtain ⟨-, -, hbit'⟩ := h'
  rw [hbit] at hbit'
  exact Except.ok.inj hbit'

theorem glyph_oneBitPerPlace (f : Font) (ch : Byte) (o : Point) : OneBitPerPlace (GlyphCellBit f ch) (cellPoint o) := by
  intro t t' v v' hv hv' hpos
  obtain rfl := cellPoint_injective o hpos
  exact hv.unique hv'

/-- A glyph's plots are those of its cell's bits (R265). -/
theorem glyphPlots_plotsOfBits {f : Font} {o : Point} {ch : Byte} {c : Bool} {ps : List (Point × Bool)}
    (h : glyphPlots f o ch c = .ok ps) : PlotsOfBits f.bg (GlyphCellBit f ch) (cellPoint o) c ps := by
  intro pc
  simp only [mem_cellPlots h, mem_glyphCells, GlyphCellBit, cellPoint, and_assoc, exists_and_left]

theorem exec_drawChar {x y : Half} {ch cb : Byte} {s : State} {ps : List (Point × Bool)}
    (h : glyphPlots s.build.font (point x y) ch (colour cb) = .ok ps) :
    exec (.drawChar x y ch cb) s = .next { s with fb := plotted s.build s.rot s.fb ps, seq := .idle } := by
  rw [exec, execDrawChar, h, drawPlots_ok]
  rfl

theorem not_colour (cb : Byte) : (!colour cb) = decide (cb = 0) := by
  simp [colour]

/-- Settles O41: the plots are those of the cell's bits, which a conforming font has, and no two are at one place. -/
theorem drawCharPaintsGlyph : Obligations.DrawCharPaintsGlyph := by
  intro x y ch cb s hs hfont font place bit
  obtain ⟨ps, hps⟩ := glyphPlots_isOk hfont (point x y) ch (colour cb)
  obtain ⟨hpixels, hbytes⟩ := (glyphPlots_plotsOfBits hps).paints (glyph_oneBitPerPlace _ ch _) hs
  refine ⟨by simp [encode, halfBytes_eq], _, exec_drawChar hps, hs.plotted _ _, fun q hq => ?pixels, fun a ha => ?bytes⟩
  case pixels =>
    have hpixel := hpixels q hq
    simp only [Prod.exists, not_colour] at hpixel
    exact hpixel
  case bytes => exact hbytes a fun t v ⟨hi, hj, _⟩ => ha t.1 t.2 hi hj

/-! ### A string -/

/-- Pixel `t.2` is a pixel of the cell of character `t.1` of the string and its bit is `v` (R267). -/
def StringCellBit (f : Font) (chars : List Byte) (t : Nat × Nat × Nat) (v : Bool) : Prop :=
  ∃ ch, chars[t.1]? = some ch ∧ GlyphCellBit f ch t.2 v

theorem stringCellBit_cons_zero {f : Font} {ch : Byte} {chars : List Byte} {t : Nat × Nat} {v : Bool} :
    StringCellBit f (ch :: chars) (0, t) v ↔ GlyphCellBit f ch t v := by
  simp [StringCellBit]

theorem stringCellBit_cons_succ {f : Font} {ch : Byte} {chars : List Byte} {k : Nat} {t : Nat × Nat} {v : Bool} :
    StringCellBit f (ch :: chars) (k + 1, t) v ↔ StringCellBit f chars (k, t) v :=
  Iff.rfl

/-- The logical point of pixel `t.2` of the cell of character `t.1` in a string whose origin is `o` (R267). -/
def stringCellPoint (f : Font) (o : Point) (t : Nat × Nat × Nat) : Point :=
  cellPoint (o.1 + t.1 * (f.width + f.spacing), o.2) t.2

/-- The cells of a string do not overlap: each is narrower than the advance. -/
theorem eq_of_stringCellPoint_eq {f : Font} {o : Point} {t t' : Nat × Nat × Nat} (hi : t.2.1 < f.width) (hi' : t'.2.1 < f.width)
    (h : stringCellPoint f o t = stringCellPoint f o t') : t = t' := by
  obtain ⟨k, i, j⟩ := t
  obtain ⟨k', i', j'⟩ := t'
  simp only [stringCellPoint, cellPoint, Prod.mk.injEq, add_right_inj, Nat.cast_inj, add_assoc] at h
  obtain ⟨hx, rfl⟩ := h
  have hx : k * (f.width + f.spacing) + i = k' * (f.width + f.spacing) + i' := by exact_mod_cast hx
  obtain ⟨rfl, rfl⟩ := eq_of_mul_add_eq (Nat.lt_add_right _ hi) (Nat.lt_add_right _ hi') hx
  rfl

theorem string_oneBitPerPlace (f : Font) (chars : List Byte) (o : Point) :
    OneBitPerPlace (StringCellBit f chars) (stringCellPoint f o) := by
  rintro t t' v v' ⟨ch, hch, hbit⟩ ⟨ch', hch', hbit'⟩ hpos
  obtain rfl := eq_of_stringCellPoint_eq hbit.1 hbit'.1 hpos
  obtain rfl : ch = ch' := Option.some.inj (hch.symm.trans hch')
  exact hbit.unique hbit'

theorem stringCellPoint_zero (f : Font) (o : Point) (t : Nat × Nat) : stringCellPoint f o (0, t) = cellPoint o t := by
  simp [stringCellPoint]

/-- The cells after the first are those of the rest of the string from the advanced cursor. -/
theorem stringCellPoint_succ (f : Font) (o : Point) (k : Nat) (t : Nat × Nat) :
    stringCellPoint f o (k + 1, t) = stringCellPoint f (o.1 + ((f.width + f.spacing : Nat) : Int), o.2) (k, t) := by
  simp only [stringCellPoint]
  congr 2
  push_cast
  ring

/-- Splits off index 0, as the first character's cell from those of the rest of the string. -/
theorem exists_nat_prod_iff {ι : Type} {p : Nat × ι → Prop} :
    (∃ t, p t) ↔ (∃ u, p (0, u)) ∨ ∃ t : Nat × ι, p (t.1 + 1, t.2) := by
  simp only [Prod.exists]
  exact Nat.or_exists_add_one.symm

theorem stringPlots_cons {f : Font} {c : Bool} {o : Point} {ch : Byte} {chars : List Byte} {ps : List (Point × Bool)}
    (h : stringPlots f c o (ch :: chars) = .ok ps) :
    ∃ qs rs, glyphPlots f o ch c = .ok qs ∧
      stringPlots f c (o.1 + ((f.width + f.spacing : Nat) : Int), o.2) chars = .ok rs ∧ ps = qs ++ rs := by
  rw [stringPlots] at h
  split at h
  case h_1 qs rs hqs hrs => exact ⟨qs, rs, hqs, hrs, (Except.ok.inj h).symm⟩
  case h_2 => cases h
  case h_3 => cases h

/-- A string's plots are those of its cells' bits (R267). -/
theorem stringPlots_plotsOfBits {f : Font} {c : Bool} {chars : List Byte} {o : Point} {ps : List (Point × Bool)}
    (h : stringPlots f c o chars = .ok ps) : PlotsOfBits f.bg (StringCellBit f chars) (stringCellPoint f o) c ps := by
  induction chars generalizing o ps with
  | nil =>
    obtain rfl := Except.ok.inj h
    simp [PlotsOfBits, StringCellBit]
  | cons ch rest ih =>
    obtain ⟨qs, rs, hqs, hrs, rfl⟩ := stringPlots_cons h
    intro pc
    rw [exists_nat_prod_iff, List.mem_append, glyphPlots_plotsOfBits hqs pc, ih hrs pc]
    simp only [stringCellBit_cons_zero, stringCellBit_cons_succ, stringCellPoint_zero, stringCellPoint_succ]

theorem exec_drawString {x y : Half} {cb : Byte} {chars : List Byte} {s : State} {ps : List (Point × Bool)}
    (h : stringPlots s.build.font (colour cb) (point x y) chars = .ok ps) :
    exec (.drawString x y cb chars) s = .next { s with fb := plotted s.build s.rot s.fb ps, seq := .idle } := by
  rw [exec, execDrawString, h, drawPlots_ok]
  rfl

/-! ### Packets with characters -/

theorem toNat_lengthByte {chars : List Byte} (h : chars.length ≤ 255) : (BitVec.ofNat 8 chars.length).toNat = chars.length := by
  rw [BitVec.toNat_ofNat, Nat.mod_eq_of_lt (by omega)]

/-- The row of DRAW_STRING in R105. -/
def drawStringRow : OpRow :=
  ⟨0x41, "DRAW_STRING", .pbs, fun p => .drawString (halfAt p 1) (halfAt p 3) (byteAt p 5) (charsAt p 7 (byteAt p 6).toNat)⟩

/-- The row of STRING_WIDTH in R105. -/
def stringWidthRow : OpRow := ⟨0x42, "STRING_WIDTH", .s, fun p => .stringWidth (charsAt p 2 (byteAt p 1).toNat)⟩

theorem opRow_drawString : opRow 0x41 = some drawStringRow := rfl

theorem opRow_stringWidth : opRow 0x42 = some stringWidthRow := rfl

/-- Putting the two bytes of a 16-bit operand together again (R93). -/
theorem highByte_append_lowByte (v : Half) : ((v >>> 8).setWidth 8 ++ v.setWidth 8 : BitVec (8 + 8)) = v :=
  (BitVec.extractLsb'_append_extractLsb'_eq_extractLsb' rfl).trans BitVec.extractLsb'_eq_self

theorem decode_drawString (v : Variant) (x y : Half) (cb : Byte) {chars : List Byte} (h : chars.length ≤ 255) :
    decode v ([0x41, x.setWidth 8, (x >>> 8).setWidth 8, y.setWidth 8, (y >>> 8).setWidth 8, cb, BitVec.ofNat 8 chars.length] ++
      chars) false = .ok (.drawString x y cb chars) := by
  have hlen := toNat_lengthByte h
  rw [List.cons_append, decode_of_opRow opRow_drawString fun hop => absurd hop.1 (by decide), if_pos]
  · simp [drawStringRow, halfAt, byteAt, charsAt, highByte_append_lowByte, hlen]
  · simp [drawStringRow, Format.length, byteAt, hlen]
    omega

theorem decode_stringWidth (v : Variant) {chars : List Byte} (h : chars.length ≤ 255) :
    decode v ([0x42, BitVec.ofNat 8 chars.length] ++ chars) false = .ok (.stringWidth chars) := by
  have hlen := toNat_lengthByte h
  rw [List.cons_append, decode_of_opRow opRow_stringWidth fun hop => absurd hop.1 (by decide), if_pos]
  · simp [stringWidthRow, byteAt, charsAt, hlen]
  · simp [stringWidthRow, Format.length, byteAt, hlen]
    omega

/-- Settles O42: the plots are those of the cells' bits, and no two are at one place since the cells do not overlap. -/
theorem drawStringPaintsGlyphs : Obligations.DrawStringPaintsGlyphs := by
  intro x y cb chars s hs hfont font place bit
  obtain ⟨ps, hps⟩ := stringPlots_isOk hfont (colour cb) chars (point x y)
  obtain ⟨hpixels, hbytes⟩ := (stringPlots_plotsOfBits hps).paints (string_oneBitPerPlace _ chars _) hs
  refine ⟨fun hlen v => decode_drawString v x y cb hlen, _, exec_drawString hps, hs.plotted _ _, fun q hq => ?pixels,
    fun a ha => ?bytes⟩
  case pixels =>
    have hpixel := hpixels q hq
    simp only [Prod.exists, not_colour] at hpixel
    exact hpixel
  case bytes =>
    refine hbytes a fun t v ⟨ch, hch, hi, hj, _⟩ => ha t.1 t.2.1 t.2.2 ?_ hi hj
    exact (List.getElem?_eq_some_iff.1 hch).1

/-! ### Measuring a string -/

theorem inFont_eq (f : Font) (ch : Byte) :
    inFont f ch = (decide (f.first.toNat ≤ ch.toNat) && decide (ch.toNat ≤ f.last.toNat)) :=
  Bool.decide_and ..

theorem stringWidthOf_eq (f : Font) (chars : List Byte) : stringWidthOf f chars = chars.countP (inFont f) * f.width := by
  induction chars with
  | nil => simp [stringWidthOf]
  | cons ch rest ih =>
    rw [stringWidthOf, ih, List.countP_cons, Nat.add_mul, Nat.add_comm, ite_mul, Nat.one_mul, Nat.zero_mul]

/-- Settles O43: the sum is a count (`stringWidthOf_eq`), and at most 255 characters of at most 255 pixels are counted. -/
theorem stringWidthResult : Obligations.StringWidthResult := by
  intro chars s
  simp only [← inFont_eq]
  refine ⟨?result, fun hlen v => decode_stringWidth v hlen, fun hlen hfont => ?bound⟩
  case result =>
    rw [← stringWidthOf_eq]
    rfl
  case bound =>
    obtain ⟨-, -, ⟨-, hwidth⟩, -⟩ := hfont
    exact Nat.mul_le_mul (List.countP_le_length.trans hlen) hwidth

end Sys2Proof.Machine
end

section
/-!
PROOFS. Writes while BUSY (60_exceptions.md): a CMD or DOORBELL write records OVERRUN and does nothing else (rule R306).
-/

namespace Sys2Proof.Machine

theorem doorbellWrite_of_busy {s : State} (hbusy : s.seq ≠ .idle) : doorbellWrite s = s.recordErr .overrun :=
  if_pos ((busy_iff s).2 hbusy)

/-- Settles O10: at either offset the busy branch of the write is `recordErr` of OVERRUN, of which `recordErr_eq` says the rest. -/
theorem writeWhileBusyOverruns : Obligations.WriteWhileBusyOverruns := by
  intro s v hbusy offset hoffset
  have hcmd : hostWrite s 0x08 4 v = .next (cmdWrite s v) := rfl
  have hdoorbell : hostWrite s 0x0C 4 v = .next (doorbellWrite s) := rfl
  obtain rfl | rfl := List.mem_pair.1 hoffset
  · rw [hcmd, cmdWrite_of_busy hbusy, recordErr_eq]
  · rw [hdoorbell, doorbellWrite_of_busy hbusy, recordErr_eq]

end Sys2Proof.Machine
end

section
/-!
PROOFS. Packets and operations (30_encoding.md): every operation decodes from its own packet, and a packet that decodes is the
packet of its operation (rules R92, R93, R96, R105, R106).
-/

namespace Sys2Proof.Machine

/-! ### From an operation to its packet and back -/

/-- Reading a 16-bit operand back from its two bytes (R93). -/
theorem highByte_append_lowByte_extract (v : Half) : (v.extractLsb' 8 8 ++ v.extractLsb' 0 8 : BitVec (8 + 8)) = v :=
  highByte_append_lowByte v

/-- A packet whose opcode has a row, with the row's length and the row's operands, decodes to its operation (R106). -/
theorem decode_encode_of_row {v : Variant} {i : Instr} {op : Byte} {rest : List Byte} {row : OpRow}
    (henc : encode i = op :: rest) (hrow : opRow op = some row) (hv : op = 0x12 → v ≠ .mono1)
    (hlen : row.format.length (op :: rest) = some (rest.length + 1)) (hmake : row.make (op :: rest) = i) :
    decode v (encode i) false = .ok i := by
  rw [henc, decode_of_opRow hrow fun h => hv h.1 h.2, if_pos ⟨rfl, hlen⟩, hmake]

/-- Settles O1: the row is found by the opcode and its fields are the operands, the 16-bit ones rejoined from their bytes; with
characters the length byte counts them. -/
theorem decodeOfEncode : Obligations.DecodeOfEncode := by
  intro v i hwf hv
  cases i with
  | nop | clearErr | init | display | hpm | lpm | fill | setRot | sleep | invert | dispon => rfl
  | plotRaw | drawPixel | readPixel | line | rect | fillRect | circle | fillCircle | triangle | fillTriangle | drawChar =>
    exact decode_encode_of_row rfl rfl (fun h => absurd h (by decide)) rfl
      (by simp [halfAt, byteAt, halfBytes, highByte_append_lowByte_extract])
  | drawPixelGray =>
    obtain rfl : v = .gray2 := of_decide_eq_true hv
    exact decode_encode_of_row rfl rfl (fun _ => by decide) rfl
      (by simp [halfAt, byteAt, halfBytes, highByte_append_lowByte_extract])
  | drawString x y cb chars =>
    rw [← decode_drawString v x y cb (of_decide_eq_true hwf), encode, halfBytes_eq, halfBytes_eq]
    rfl
  | stringWidth chars => exact decode_stringWidth v (of_decide_eq_true hwf)

/-! ### From a packet to its operation and back -/

/-- The two bytes at which a 16-bit operand is read are those that write it (R93). -/
theorem halfBytes_halfAt (p : List Byte) (k : Nat) : halfBytes (halfAt p k) = [byteAt p k, byteAt p (k + 1)] := by
  rw [halfBytes, halfAt]
  congr 1
  · exact BitVec.extractLsb'_append_eq_right
  · exact congrArg (fun b => [b]) BitVec.extractLsb'_append_eq_left

theorem byteAt_cons_drop {p : List Byte} {k : Nat} (h : k < p.length) : byteAt p k :: p.drop (k + 1) = p.drop k := by
  rw [byteAt, ← List.getElem_eq_getD (h := h), List.cons_getElem_drop_succ]

theorem last_byteAt_eq_drop {p : List Byte} {k : Nat} (h : p.length = k + 1) : [byteAt p k] = p.drop k := by
  rw [← byteAt_cons_drop (by omega), List.drop_eq_nil_of_le h.le]

theorem halfBytes_append_drop {p : List Byte} {k : Nat} (h : k + 1 < p.length) :
    halfBytes (halfAt p k) ++ p.drop (k + 2) = p.drop k := by
  rw [halfBytes_halfAt, List.cons_append, List.cons_append, List.nil_append, byteAt_cons_drop h, byteAt_cons_drop (by omega)]

theorem last_halfBytes_eq_drop {p : List Byte} {k : Nat} (h : p.length = k + 2) : halfBytes (halfAt p k) = p.drop k := by
  rw [← halfBytes_append_drop (by omega), List.drop_eq_nil_of_le h.le, List.append_nil]

theorem charsAt_eq_drop {p : List Byte} {k n : Nat} (h : p.length = k + n) : charsAt p k n = p.drop k :=
  List.take_of_length_le (by simp [h])

/-- The row's operation keeps every byte of a packet of the row's length: its own packet is that one, but for the opcode. -/
def RowIsFaithful (row : OpRow) : Prop :=
  ∀ p : List Byte, row.format.length p = some p.length →
    encode (row.make p) = row.opcode :: p.drop 1 ∧ (row.make p).wellFormed = true

/-- A row of a format without characters: its fields tile the packet. -/
theorem rowIsFaithful_of_fixedLength {row : OpRow} {n : Nat} (hlen : ∀ p, row.format.length p = some n)
    (hwf : ∀ p, (row.make p).wellFormed = true)
    (henc : ∀ p : List Byte, p.length = n → encode (row.make p) = row.opcode :: p.drop 1) : RowIsFaithful row := by
  intro p hp
  rw [hlen] at hp
  exact ⟨henc p (Option.some.inj hp).symm, hwf p⟩

theorem opRowsPixel_faithful : ∀ row ∈ opRowsPixel, RowIsFaithful row := by
  simp only [opRowsPixel, List.forall_mem_cons]
  refine ⟨?_, ?_, ?_, ?_, ?_, ?_, ?_, ?_, nofun⟩
  all_goals
    refine rowIsFaithful_of_fixedLength (fun _ => rfl) (fun _ => rfl) fun p hlen => ?_
    simp (disch := omega) [encode, last_byteAt_eq_drop, halfBytes_append_drop, last_halfBytes_eq_drop, List.drop_eq_nil_of_le,
      -List.drop_one]

theorem opRowsProtocol_faithful : ∀ row ∈ opRowsProtocol, RowIsFaithful row := by
  simp only [opRowsProtocol, List.forall_mem_cons]
  refine ⟨?_, ?_, ?_, ?_, ?_, ?_, ?_, nofun⟩
  all_goals
    refine rowIsFaithful_of_fixedLength (fun _ => rfl) (fun _ => rfl) fun p hlen => ?_
    simp (disch := omega) [encode, last_byteAt_eq_drop, List.drop_eq_nil_of_le, -List.drop_one]

theorem opRowsRaster_faithful : ∀ row ∈ opRowsRaster, RowIsFaithful row := by
  simp only [opRowsRaster, List.forall_mem_cons]
  refine ⟨?_, ?_, ?_, ?_, ?_, ?_, ?_, nofun⟩
  all_goals
    refine rowIsFaithful_of_fixedLength (fun _ => rfl) (fun _ => rfl) fun p hlen => ?_
    simp (disch := omega) [encode, last_byteAt_eq_drop, halfBytes_append_drop, -List.drop_one]

theorem drawStringRow_faithful : RowIsFaithful drawStringRow := by
  intro p hp
  obtain ⟨hlong, hlen⟩ : ¬ p.length < 7 ∧ 7 + (byteAt p 6).toNat = p.length := by
    simpa [drawStringRow, Format.length] using hp
  have hchars := charsAt_eq_drop hlen.symm
  have hcount : (p.drop 7).length = (byteAt p 6).toNat := by
    rw [List.length_drop]
    omega
  refine ⟨?_, ?_⟩
  · simp (disch := omega) [drawStringRow, encode, hchars, hcount, byteAt_cons_drop, halfBytes_append_drop, -List.drop_one]
  · have := (byteAt p 6).isLt
    simp [drawStringRow, Instr.wellFormed, hchars]
    omega

theorem stringWidthRow_faithful : RowIsFaithful stringWidthRow := by
  intro p hp
  obtain ⟨hlong, hlen⟩ : ¬ p.length < 2 ∧ 2 + (byteAt p 1).toNat = p.length := by
    simpa [stringWidthRow, Format.length] using hp
  have hchars := charsAt_eq_drop hlen.symm
  have hcount : (p.drop 2).length = (byteAt p 1).toNat := by
    rw [List.length_drop]
    omega
  refine ⟨?_, ?_⟩
  · simp (disch := omega) [stringWidthRow, encode, hchars, hcount, byteAt_cons_drop, -List.drop_one]
  · have := (byteAt p 1).isLt
    simp [stringWidthRow, Instr.wellFormed, hchars]
    omega

theorem opRowsText_faithful : ∀ row ∈ opRowsText, RowIsFaithful row := by
  simp only [opRowsText, List.forall_mem_cons]
  refine ⟨?_, drawStringRow_faithful, stringWidthRow_faithful, nofun⟩
  refine rowIsFaithful_of_fixedLength (fun _ => rfl) (fun _ => rfl) fun p hlen => ?_
  simp (disch := omega) [encode, last_byteAt_eq_drop, byteAt_cons_drop, halfBytes_append_drop, -List.drop_one]

theorem opRow_faithful {op : Byte} {row : OpRow} (h : opRow op = some row) : RowIsFaithful row ∧ row.opcode = op := by
  refine ⟨?_, by simpa using List.find?_some h⟩
  have hmem := List.mem_of_find?_eq_some h
  simp only [opRows, List.mem_append] at hmem
  obtain ((hrow | hrow) | hrow) | hrow := hmem
  · exact opRowsPixel_faithful row hrow
  · exact opRowsProtocol_faithful row hrow
  · exact opRowsRaster_faithful row hrow
  · exact opRowsText_faithful row hrow

/-- The decode refuses with an error, or finds a row of the packet's length for a packet that did not overflow (R106). -/
theorem decode_cases (v : Variant) (p : List Byte) (povf : Bool) :
    (∃ c, decode v p povf = .error c ∧ c ≠ .noError) ∨
      ∃ op rest row, p = op :: rest ∧ opRow op = some row ∧ povf = false ∧ row.format.length p = some p.length ∧
        decode v p povf = .ok (row.make p) := by
  cases p with
  | nil => exact .inl ⟨_, decode_nil v povf, nofun⟩
  | cons op rest =>
    by_cases hres : ReservedOpcode op
    · exact .inl ⟨_, decode_of_reserved hres v rest povf, nofun⟩
    obtain ⟨row, hrow⟩ := exists_opRow_of_not_reserved hres
    by_cases hgray : op = 0x12 ∧ v = .mono1
    · obtain ⟨rfl, rfl⟩ := hgray
      exact .inl ⟨_, decode_drawPixelGray_mono1 rest povf, nofun⟩
    rw [decode_of_opRow hrow hgray]
    split
    next hok => exact .inr ⟨op, rest, row, rfl, hrow, hok.1, hok.2, rfl⟩
    next => exact .inl ⟨_, rfl, nofun⟩

theorem decode_error_ne_noError {v : Variant} {p : List Byte} {povf : Bool} {c : ErrCode} (h : decode v p povf = .error c) :
    c ≠ .noError := by
  obtain ⟨d, herr, hd⟩ | ⟨op, rest, row, -, -, -, -, hok⟩ := decode_cases v p povf
  · cases h.symm.trans herr
    exact hd
  · cases h.symm.trans hok

theorem opRow_of_decode_ok {v : Variant} {p : List Byte} {povf : Bool} {i : Instr} (h : decode v p povf = .ok i) :
    ∃ op rest row, p = op :: rest ∧ opRow op = some row ∧ povf = false ∧ row.format.length p = some p.length ∧
      i = row.make p := by
  obtain ⟨c, herr, -⟩ | ⟨op, rest, row, hp, hrow, hpovf, hlen, hok⟩ := decode_cases v p povf
  · cases h.symm.trans herr
  · exact ⟨op, rest, row, hp, hrow, hpovf, hlen, Except.ok.inj (h.symm.trans hok)⟩

/-- Only DRAW_PIXEL_GRAY can be missing, and in MONO1 its packet does not decode (R104, R106). -/
theorem existsIn_of_decode_encode {v : Variant} {i : Instr} {povf : Bool} (h : decode v (encode i) povf = .ok i) :
    i.existsIn v = true := by
  cases i with
  | drawPixelGray x y g =>
    cases v with
    | mono1 => cases h
    | gray2 => rfl
  | _ => rfl

/-- Settles O2: the row the packet was decoded by loses none of its bytes (`opRow_faithful`). -/
theorem encodeOfDecode : Obligations.EncodeOfDecode := by
  intro v p povf i h
  obtain ⟨op, rest, row, rfl, hrow, hpovf, hlen, rfl⟩ := opRow_of_decode_ok h
  obtain ⟨hfaithful, rfl⟩ := opRow_faithful hrow
  obtain ⟨henc, hwf⟩ := hfaithful _ hlen
  refine ⟨hpovf, henc, hwf, existsIn_of_decode_encode (povf := povf) ?_⟩
  rw [henc]
  exact h

end Sys2Proof.Machine
end

section
/-!
PROOFS. One step of an operation (41_protocol.md, 60_exceptions.md): an operation with events issues, completes, fails or commits
(rules R170, R171, R174, R308), the power table (rule R175), DRAW_PIXEL_GRAY (rule R145), and when a step answers next at all.
-/

namespace Sys2Proof.Machine

/-! ### When a step answers next -/

theorem exec_drawPoints_isNext {i : Instr} {s : State} {ps : List Point} {cb : Byte} (h : exec i s = drawPoints s ps cb) :
    ∃ t, exec i s = .next t :=
  ⟨_, h.trans (drawPoints_eq s ps cb)⟩

/-- Only drawing can stop, and only at a glyph that is not in the ROM (R62). -/
theorem exec_isNext {i : Instr} {s : State} (hfont : writesFb i = true → s.build.font.Conforming) :
    ∃ t, exec i s = .next t := by
  cases i with
  | nop | clearErr | fill | setRot | init | sleep | invert | dispon | stringWidth => exact ⟨_, rfl⟩
  | plotRaw => exact ⟨_, exec_plotRaw ..⟩
  | drawPixel => exact ⟨_, exec_drawPixel ..⟩
  | readPixel => exact ⟨_, exec_readPixel ..⟩
  | drawPixelGray =>
    simp only [exec, execDrawPixelGray, plotGray_eq, finishFb_ok]
    split
    · exact ⟨_, rfl⟩
    · split <;> exact ⟨_, rfl⟩
  | display =>
    simp only [exec, execDisplay]
    split <;> exact ⟨_, rfl⟩
  | hpm =>
    simp only [exec, execHpm]
    split <;> exact ⟨_, rfl⟩
  | lpm =>
    simp only [exec, execLpm]
    split <;> exact ⟨_, rfl⟩
  | line | rect | fillRect | circle | fillCircle | triangle | fillTriangle => exact exec_drawPoints_isNext rfl
  | drawChar x y ch cb =>
    obtain ⟨ps, hps⟩ := glyphPlots_isOk (hfont rfl) (point x y) ch (colour cb)
    exact ⟨_, exec_drawChar hps⟩
  | drawString x y cb chars =>
    obtain ⟨ps, hps⟩ := stringPlots_isOk (hfont rfl) (colour cb) chars (point x y)
    exact ⟨_, exec_drawString hps⟩

theorem eventList_of_writesFb {i : Instr} (h : writesFb i = true) (s : State) : eventList i s = [] := by
  cases i with
  | plotRaw | drawPixel | drawPixelGray | fill => rfl
  | line | rect | fillRect | circle | fillCircle | triangle | fillTriangle | drawChar | drawString => rfl
  | _ => cases h

/-- The power state while operation `i` has events to come: INITIALIZING for INIT, else unchanged (R38). -/
def runningPower (i : Instr) (s : State) : Power := if i = .init then .initializing else s.pwr

/-- A step of an operation that has events is a step of the sequencer on its list (R44). -/
theorem exec_of_events {i : Instr} {s : State} (h : eventList i s ≠ []) :
    ∃ atCommit, exec i s = .next ((s.setPwr (runningPower i s)).sequence (eventList i s) atCommit) := by
  obtain ⟨t, ht⟩ := exec_isNext (i := i) (s := s) fun hi => absurd (eventList_of_writesFb hi s) h
  rw [ht]
  cases exec_cases ht with
  | drew m hi he => exact absurd he h
  | rotated a hi => subst hi; exact absurd rfl h
  | gaveResult v hi => obtain ⟨x, y, rfl⟩ | ⟨chars, rfl⟩ := hi <;> exact absurd rfl h
  | cleared hi => subst hi; exact absurd rfl h
  | idled hi he => exact absurd he h
  | raised c hc hi he => exact absurd he h
  | init hi => exact ⟨_, by rw [runningPower, if_pos hi]⟩
  | emits hi => exact ⟨_, by rw [runningPower, if_neg hi]; rfl⟩
  | switches target hi => exact ⟨_, by rw [runningPower, if_neg hi]; rfl⟩

theorem eventList_ne_nil {i : Instr} {s : State} {k : Nat} {e : TxEvent} (he : (eventList i s)[k]? = some e) :
    eventList i s ≠ [] := by
  rintro hnil
  rw [hnil] at he
  cases he

/-! ### The issue and the completion of an event -/

theorem issue_eq (s : State) (p : Packet) (k : Nat) (e : TxEvent) :
    s.issue p k e = { s with
      seq := .exec p k (some e), rstN := rstAfter s.rstN [e], csN := if e.isFrame then false else s.csN
      dc := dcAfter s.dc [e] } := by
  cases e <;> rfl

theorem takeAnswer_eq (s : State) :
    s.takeAnswer = { s with
      answers := s.answers.tail, freeCount := if s.answers = [] then s.freeCount + 1 else s.freeCount } := by
  unfold State.takeAnswer
  split
  next h => simp [h]
  next h => simp [h]

theorem exec_issues {i : Instr} {s : State} {p : Packet} {k : Nat} {e : TxEvent} (hseq : s.seq = .exec p k none)
    (he : (eventList i s)[k]? = some e) : exec i s = .next ((s.setPwr (runningPower i s)).issue p k e) := by
  obtain ⟨atCommit, hexec⟩ := exec_of_events (eventList_ne_nil he)
  rw [hexec, sequence_issue ((s.setPwr_seq _).trans hseq) he]

theorem exec_completes {i : Instr} {s : State} {p : Packet} {k : Nat} {e : TxEvent} (hseq : s.seq = .exec p k (some e))
    (he : (eventList i s)[k]? = some e) : exec i s = .next ((s.setPwr (runningPower i s)).complete p k e) := by
  obtain ⟨atCommit, hexec⟩ := exec_of_events (eventList_ne_nil he)
  rw [hexec, sequence_complete ((s.setPwr_seq _).trans hseq)]

/-- Settles O44: the next event of the list is issued, and `issue_eq` says what that drives. -/
theorem nextEventIsIssued : Obligations.NextEventIsIssued := by
  intro i s p k e hseq he
  rw [exec_issues hseq he, issue_eq]
  cases e <;> rfl

/-- Settles O45: the event in flight completes, and the completion is the transport's only where the event can fail. -/
theorem eventCompletesOk : Obligations.EventCompletesOk := by
  intro i s p k e hseq he hok
  have hrun : e.canFail = true → (s.setPwr (runningPower i s)).nextAnswer = true := hok
  rw [exec_completes hseq he, complete_ok p k hrun, takeAnswer_eq]
  by_cases hfail : e.canFail = true
  · simp only [hfail, if_true, true_and]
    rfl
  · simp only [hfail]
    rfl

/-- Settles O16: the completion fails, and a failure records TRANSPORT_FAIL after the answer was taken. -/
theorem transportFailAborts : Obligations.TransportFailAborts := by
  intro i s p k e hseq he hfail hanswer
  have hrun : (s.setPwr (runningPower i s)).nextAnswer = false := hanswer
  rw [exec_completes hseq he, complete_fail p k hfail hrun, State.eventFail, raise_eq, takeAnswer_eq]
  rfl

/-! ### The power table -/

theorem exec_display_of_on {s : State} (h : s.pwr ∈ [.highPower, .lowPower]) :
    exec .display s = .next (s.sequence (displayEvents s.build s.fb) id) := by
  obtain h | h := List.mem_pair.1 h
  all_goals simp only [exec, execDisplay, h]

theorem exec_hpm_of_lowPower {s : State} (h : s.pwr = .lowPower) :
    exec .hpm s = .next (s.sequence [.cmd s.build.cmds.hpm] fun t => t.setPwr .highPower) := by
  simp only [exec, execHpm, h]

theorem exec_lpm_of_highPower {s : State} (h : s.pwr = .highPower) :
    exec .lpm s = .next (s.sequence [.cmd s.build.cmds.lpm] fun t => t.setPwr .lowPower) := by
  simp only [exec, execLpm, h]

theorem exec_hpm_of_highPower {s : State} (h : s.pwr = .highPower) : exec .hpm s = .next s.commit := by
  simp only [exec, execHpm, h]

theorem exec_lpm_of_lowPower {s : State} (h : s.pwr = .lowPower) : exec .lpm s = .next s.commit := by
  simp only [exec, execLpm, h]

theorem exec_sleep_of_enabled {eb : Byte} (h : eb ≠ 0) (s : State) : exec (.sleep eb) s = .next (sleepIn s) := by
  rw [exec, execSleep, enabled, if_pos (decide_eq_true h)]

theorem exec_sleep_zero (s : State) : exec (.sleep 0) s = .next (wake s) := rfl

theorem sleepIn_of_highPower {s : State} (h : s.pwr = .highPower) :
    sleepIn s = s.sequence (sleepInEvents s.build) fun t => t.setPwr .sleeping := by
  simp only [sleepIn, h]

theorem sleepIn_of_lowPower {s : State} (h : s.pwr = .lowPower) :
    sleepIn s = s.sequence (sleepInFromLowEvents s.build) fun t => t.setPwr .sleeping := by
  simp only [sleepIn, h]

theorem sleepIn_of_sleeping {s : State} (h : s.pwr = .sleeping) : sleepIn s = s.commit := by
  simp only [sleepIn, h]

theorem wake_of_on {s : State} (h : s.pwr ∈ [.highPower, .lowPower]) : wake s = s.commit := by
  obtain h | h := List.mem_pair.1 h
  all_goals simp only [wake, h]

theorem wake_of_sleeping {s : State} (h : s.pwr = .sleeping) :
    wake s = s.sequence (wakeEvents s.build) fun t => t.setPwr .highPower := by
  simp only [wake, h]

theorem exec_sleep_of_uninitialized (eb : Byte) {s : State} (h : s.pwr = .uninitialized) :
    exec (.sleep eb) s = .next (s.raise .badState) := by
  simp only [exec, execSleep, sleepIn, wake, h, ite_self]

/-- Settles O46: with as many events done as the list has, the step is the operation's commit. -/
theorem protocolOperationsCommit : Obligations.ProtocolOperationsCommit := by
  intro s p eb
  refine ⟨fun hseq => ?init, fun hpwr hseq => ?display, fun hpwr hseq => ?hpm, fun hpwr hseq => ?lpm,
    fun hpwr heb hseq => ?sleepHigh, fun hpwr heb hseq => ?sleepLow, fun hpwr hseq => ?wake, fun hseq => ?invert, fun hseq => ?dispon⟩
  case init => exact congrArg Host.Outcome.next (sequence_commit ((s.setPwr_seq .initializing).trans hseq) le_rfl _)
  case display =>
    rw [exec_display_of_on hpwr, sequence_commit hseq le_rfl]
    rfl
  case hpm =>
    rw [exec_hpm_of_lowPower hpwr]
    exact congrArg Host.Outcome.next (sequence_commit hseq le_rfl _)
  case lpm =>
    rw [exec_lpm_of_highPower hpwr]
    exact congrArg Host.Outcome.next (sequence_commit hseq le_rfl _)
  case sleepHigh =>
    rw [exec_sleep_of_enabled heb, sleepIn_of_highPower hpwr]
    exact congrArg Host.Outcome.next (sequence_commit hseq le_rfl _)
  case sleepLow =>
    rw [exec_sleep_of_enabled heb, sleepIn_of_lowPower hpwr]
    exact congrArg Host.Outcome.next (sequence_commit hseq le_rfl _)
  case wake =>
    rw [exec_sleep_zero, wake_of_sleeping hpwr]
    exact congrArg Host.Outcome.next (sequence_commit hseq le_rfl _)
  case invert => exact congrArg Host.Outcome.next (sequence_commit hseq le_rfl _)
  case dispon => exact congrArg Host.Outcome.next (sequence_commit hseq le_rfl _)

/-- Settles O15: in each cell the meaning is `raise` of BAD_STATE, of which `raise_eq` says the rest, or the bare commit. -/
theorem powerTableRefusesOrIgnores : Obligations.PowerTableRefusesOrIgnores := by
  intro s eb refusal
  have hraise : .next (s.raise .badState) = refusal := congrArg Host.Outcome.next (raise_eq s .badState)
  refine ⟨fun hpwr => ?off, fun hpwr => ?sleepOff, exec_hpm_of_highPower, exec_lpm_of_lowPower, fun hpwr heb => ?asleep,
    fun hpwr => ?awake⟩
  case off =>
    obtain hpwr | hpwr := List.mem_pair.1 hpwr
    all_goals simp only [exec, execDisplay, execHpm, execLpm, hpwr, hraise, and_self]
  case sleepOff => rw [exec_sleep_of_uninitialized eb hpwr, hraise]
  case asleep => exact (exec_sleep_of_enabled heb s).trans (congrArg Host.Outcome.next (sleepIn_of_sleeping hpwr))
  case awake => exact (exec_sleep_zero s).trans (congrArg Host.Outcome.next (wake_of_on hpwr))

/-! ### DRAW_PIXEL_GRAY -/

/-- Settles O24: the two refusals of the meaning, and `raise_eq` says what each leaves. -/
theorem drawPixelGrayErrors : Obligations.DrawPixelGrayErrors := by
  refine fun x y g s => ⟨fun hv hg => ?_, fun hv => ?_⟩
  · simp only [exec, execDrawPixelGray, hv, if_pos hg, raise_eq]
  · simp only [exec, execDrawPixelGray, hv, raise_eq]

/-- Settles O23: `touched` at the rotated point, with the level that its two low bits are. -/
theorem drawPixelGrayResult : Obligations.DrawPixelGrayResult := by
  intro x y g s hs hv hg z
  refine ⟨_, exec_drawPixelGray x y hv hg, hs.touched _ _, fun q hq => ?pixel, fun a ha => ?byte⟩
  case pixel =>
    rw [pixelAt_touched_level hs.1 hv g hq, levelBits_eq hg]
    rfl
  case byte => exact read_touched_ne s.fb _ ha

end Sys2Proof.Machine
end

section
/-!
PROOFS. Runs of the protocol operations with every completion ok (41_protocol.md rules R173 to R192): an operation goes through its
event list (`runs_events`), then commits (`runs_operation`).
-/

namespace Sys2Proof.Machine

/-! ### Steps put together -/

theorem execTimes_add {i : Instr} {s t : State} {m : Nat} (h : execTimes i m s = .next t) (n : Nat) :
    execTimes i (m + n) s = execTimes i n t := by
  induction m generalizing s with
  | zero =>
    cases h
    rw [Nat.zero_add]
  | succ m ih =>
    rw [execTimes] at h
    rw [Nat.add_right_comm, execTimes]
    cases hexec : exec i s with
    | next u =>
      rw [hexec] at h
      exact ih h
    | fault | refused =>
      rw [hexec] at h
      cases h

theorem execTimes_one {i : Instr} {s t : State} (h : exec i s = .next t) : execTimes i 1 s = .next t := by
  rw [execTimes, h]
  rfl

theorem execTimes_two {i : Instr} {s t u : State} (h : exec i s = .next t) (h' : exec i t = .next u) :
    execTimes i 2 s = .next u := by
  rw [execTimes_add (execTimes_one h) 1, execTimes_one h']

/-! ### One event -/

theorem rstAfter_cons (r : Bool) (e : TxEvent) (evs : List TxEvent) : rstAfter r (e :: evs) = rstAfter (rstAfter r [e]) evs := by
  cases e <;> rfl

theorem dcAfter_cons (d : Bool) (e : TxEvent) (evs : List TxEvent) : dcAfter d (e :: evs) = dcAfter (dcAfter d [e]) evs := by
  cases e <;> rfl

theorem fallible_cons (e : TxEvent) (evs : List TxEvent) : fallible (e :: evs) = e.canFail.toNat + fallible evs := by
  cases h : e.canFail <;> simp [fallible, h, Nat.add_comm]

/-- The state after `e` and then `evs` is the state after `evs` from that after `e`, wherever the sequencer stands between. -/
theorem afterEvents_cons (s : State) (e : TxEvent) (evs : List TxEvent) (answers rest : List Bool) (q q' : Seq) :
    { State.afterEvents { s.afterEvents [e] answers with seq := q } evs rest with seq := q' } =
      { s.afterEvents (e :: evs) rest with seq := q' } := by
  simp only [State.afterEvents, rstAfter_cons s.rstN e evs, dcAfter_cons s.dc e evs, List.map_cons, List.map_nil, List.append_assoc,
    List.singleton_append]

theorem eventList_congr {s t : State} (hbuild : t.build = s.build) (hfb : t.fb = s.fb) (hpwr : t.pwr = s.pwr) (i : Instr) :
    eventList i t = eventList i s := by
  unfold eventList
  rw [hbuild, hfb, hpwr]

theorem runningPower_eq {i : Instr} {s : State} (h : i = .init → s.pwr = .initializing) : runningPower i s = s.pwr := by
  unfold runningPower
  split
  next hi => exact (h hi).symm
  next => rfl

theorem nextAnswer_of_ok {s : State} {e : TxEvent} {rest : List Bool} (h : s.answers = List.replicate e.canFail.toNat true ++ rest)
    (hfail : e.canFail = true) : s.nextAnswer = true := by
  simp [State.nextAnswer, h, hfail]

theorem eventOk_answers_eq {s : State} {e : TxEvent} {rest : List Bool}
    (h : s.answers = List.replicate e.canFail.toNat true ++ rest) :
    (if e.canFail then s.answers.tail else s.answers) = rest ∧ ¬ (e.canFail = true ∧ s.answers = []) := by
  cases hfail : e.canFail <;> simp [h, hfail]

/-- With the completion ok an event is two steps, its issue and its completion, between which PWR stays and the block is busy. -/
theorem exec_event {i : Instr} {s : State} {p : Packet} {k : Nat} {e : TxEvent} {rest : List Bool} (hseq : s.seq = .exec p k none)
    (hcs : s.csN = true) (he : (eventList i s)[k]? = some e) (hpwr : i = .init → s.pwr = .initializing)
    (hans : s.answers = List.replicate e.canFail.toNat true ++ rest) :
    ∃ t, exec i s = .next t ∧ t.pwr = s.pwr ∧ t.busy = true ∧
      exec i t = .next { s.afterEvents [e] rest with seq := .exec p (k + 1) none } := by
  have hrun : s.setPwr (runningPower i s) = s := by
    rw [runningPower_eq hpwr]
    rfl
  refine ⟨s.issue p k e, ?issue, State.issue_pwr .., by simp [State.busy], ?complete⟩
  case issue => rw [exec_issues hseq he, hrun]
  case complete =>
    have he' : (eventList i (s.issue p k e))[k]? = some e := by
      rw [eventList_congr (State.issue_build ..) (State.issue_fb ..) (State.issue_pwr ..), he]
    have hok : e.canFail = true → (s.issue p k e).nextAnswer = true := nextAnswer_of_ok ((State.issue_answers ..).trans hans)
    obtain ⟨htail, hfree⟩ := eventOk_answers_eq hans
    have hpower : (if i = .init then Power.initializing else s.pwr) = s.pwr := runningPower_eq hpwr
    rw [eventCompletesOk i _ p k e (State.issue_seq ..) he' hok, issue_eq]
    simp only [hpower, htail, if_neg hfree, State.afterEvents, List.map_cons, List.map_nil]
    cases e.isFrame <;> simp [hcs]

/-! ### All events -/

theorem afterEvents_nil {s : State} {p : Packet} {k : Nat} {rest : List Bool} (hseq : s.seq = .exec p k none)
    (hans : s.answers = rest) : { s.afterEvents [] rest with seq := .exec p k none } = s := by
  rw [← hseq, ← hans]
  simp [State.afterEvents, rstAfter, dcAfter]

/-- The events still to come, each issued and completed with ok, take two steps each; PWR stays and the block is busy at
every step. -/
theorem runs_events {i : Instr} {p : Packet} {evs : List TxEvent} {rest : List Bool} {s : State} {k : Nat}
    (hseq : s.seq = .exec p k none) (hcs : s.csN = true) (hevs : (eventList i s).drop k = evs)
    (hpwr : i = .init → s.pwr = .initializing) (hans : AnswersOk s (fallible evs) rest) :
    execTimes i (2 * evs.length) s = .next { s.afterEvents evs rest with seq := .exec p (k + evs.length) none } ∧
      ∀ n ≤ 2 * evs.length, ∃ t, execTimes i n s = .next t ∧ t.pwr = s.pwr ∧ t.busy = true := by
  have hbusy : s.busy = true := by simp [State.busy, hseq]
  induction evs generalizing s k with
  | nil =>
    refine ⟨congrArg Host.Outcome.next (afterEvents_nil hseq hans).symm, fun n hn => ?_⟩
    obtain rfl : n = 0 := Nat.le_zero.1 hn
    exact ⟨s, rfl, rfl, hbusy⟩
  | cons e evs ih =>
    have he : (eventList i s)[k]? = some e := by
      rw [← Nat.add_zero k, ← List.getElem?_drop, hevs]
      rfl
    have hrest : (eventList i s).drop (k + 1) = evs := by rw [← List.tail_drop, hevs, List.tail_cons]
    rw [AnswersOk, fallible_cons, List.replicate_add, List.append_assoc] at hans
    obtain ⟨t, hissue, hissuePwr, hissueBusy, hcomplete⟩ := exec_event hseq hcs he hpwr hans
    obtain ⟨hrun, hmid⟩ := ih (s := { s.afterEvents [e] _ with seq := .exec p (k + 1) none }) rfl hcs hrest hpwr rfl rfl
    have htwo := execTimes_two hissue hcomplete
    rw [List.length_cons, Nat.mul_add_one, Nat.add_comm _ 2]
    refine ⟨?run, fun n hn => ?mid⟩
    case run => rw [execTimes_add htwo, hrun, afterEvents_cons, Nat.add_right_comm, Nat.add_assoc]
    case mid =>
      match n with
      | 0 => exact ⟨s, rfl, rfl, hbusy⟩
      | 1 => exact ⟨t, execTimes_one hissue, hissuePwr, hissueBusy⟩
      | n + 2 =>
        rw [Nat.add_comm n 2, execTimes_add htwo]
        exact hmid n (by omega)

/-- An operation from its first event on: all its events, then its commit. -/
theorem runs_operation {i : Instr} {p : Packet} {rest : List Bool} {s t : State} {evs : List TxEvent} (hevs : eventList i s = evs)
    (hseq : s.seq = .exec p 0 none) (hcs : s.csN = true) (hpwr : i = .init → s.pwr = .initializing)
    (hans : AnswersOk s (fallible evs) rest)
    (hcommit : exec i { s.afterEvents evs rest with seq := .exec p evs.length none } = .next t) :
    execTimes i (2 * evs.length + 1) s = .next t := by
  obtain ⟨hrun, -⟩ := runs_events hseq hcs hevs hpwr hans
  rw [Nat.zero_add] at hrun
  rw [execTimes_add hrun, execTimes_one hcommit]

/-! ### The operations -/

theorem sendEntry_eq (cmd : Byte) (payload : List Byte) (delay : Nat) :
    sendEntry cmd payload delay =
      [TxEvent.cmd cmd] ++ payload.map TxEvent.data ++ (if delay = 0 then [] else [TxEvent.delay delay]) := by
  rw [sendEntry]
  by_cases h : delay = 0 <;> simp [h, Nat.pos_iff_ne_zero]

theorem initEvents_eq (b : Build) :
    initEvents b = [TxEvent.txSetup, TxEvent.rst false, TxEvent.delay 10, TxEvent.rst true, TxEvent.delay 10] ++
      (b.initTable.map fun e => [TxEvent.cmd e.cmd] ++ e.payload.map TxEvent.data ++
        (if e.delay = 0 then [] else [TxEvent.delay e.delay])).flatten := by
  simp only [initEvents, List.flatMap_def, sendEntry_eq]
  rfl

/-- INIT's first step sets PWR, so that it may as well start in INITIALIZING (R177). -/
theorem execTimes_init_setPwr (n : Nat) (s : State) :
    execTimes .init (n + 1) s = execTimes .init (n + 1) (s.setPwr .initializing) := rfl

/-- Settles O47: INIT's list is the rule's, and a run of it is one that starts in INITIALIZING. -/
theorem initRuns : Obligations.InitRuns := by
  intro s p rest entry evs hseq hcs hans
  have hevs : eventList .init (s.setPwr .initializing) = evs := initEvents_eq s.build
  obtain ⟨hcommit, -⟩ := protocolOperationsCommit
    { (s.setPwr .initializing).afterEvents evs rest with seq := .exec p evs.length none } p 0
  refine ⟨?ends, fun n hpos hn => ?shows⟩
  case ends =>
    rw [execTimes_init_setPwr]
    exact runs_operation (s := s.setPwr .initializing) hevs hseq hcs (fun _ => rfl) hans (hcommit (by rw [← hevs]; rfl))
  case shows =>
    obtain ⟨m, rfl⟩ := Nat.exists_eq_add_one.2 hpos
    rw [execTimes_init_setPwr]
    exact (runs_events (s := s.setPwr .initializing) hseq hcs hevs (fun _ => rfl) hans).2 _ hn

theorem displayEvents_eq (b : Build) (m : Memory) :
    displayEvents b m = [TxEvent.cmd b.cmds.caset] ++ b.colWindow.map TxEvent.data ++ [TxEvent.cmd b.cmds.raset] ++
      b.rowWindow.map TxEvent.data ++ [TxEvent.cmd b.cmds.ramwr] ++
      [TxEvent.burst ((List.range b.fbLen).map fun a => m.read a)] := by
  simp [displayEvents, sendEntry, Memory.bytes]

theorem eventList_display_of_on {s : State} (h : s.pwr ∈ [.highPower, .lowPower]) :
    eventList .display s = displayEvents s.build s.fb := by
  obtain h | h := List.mem_pair.1 h
  all_goals simp only [eventList, h]

/-- Settles O48: DISPLAY's list is the rule's. -/
theorem displayRuns : Obligations.DisplayRuns := by
  intro s p rest evs hpwr hseq hcs hans
  have hevs : displayEvents s.build s.fb = evs := displayEvents_eq s.build s.fb
  obtain ⟨-, hcommit, -⟩ := protocolOperationsCommit { s.afterEvents evs rest with seq := .exec p evs.length none } p 0
  exact runs_operation ((eventList_display_of_on hpwr).trans hevs) hseq hcs (fun h => nomatch h) hans
    (hcommit hpwr (by rw [← hevs]; rfl))

/-- A mode transition: its events, then its target's power state. -/
theorem runs_transition {i : Instr} {p : Packet} {rest : List Bool} {s : State} {evs : List TxEvent} {target : Power}
    (hi : i ≠ .init) (hevs : eventList i s = evs) (hseq : s.seq = .exec p 0 none) (hcs : s.csN = true)
    (hexec : ∀ t : State, t.pwr = s.pwr → t.build = s.build → exec i t = .next (t.sequence evs fun u => u.setPwr target))
    (hans : AnswersOk s (fallible evs) rest) :
    execTimes i (2 * evs.length + 1) s = .next { s.afterEvents evs rest with pwr := target, seq := .idle } := by
  refine runs_operation hevs hseq hcs (fun h => absurd h hi) hans ?_
  exact (hexec { s.afterEvents evs rest with seq := .exec p evs.length none } rfl rfl).trans
    (congrArg Host.Outcome.next (sequence_commit rfl le_rfl _))

theorem enabled_of_ne {eb : Byte} (h : eb ≠ 0) : enabled eb = true := decide_eq_true h

theorem ite_enabled (eb a b : Byte) : (if enabled eb then a else b) = if eb = 0 then b else a := by
  by_cases h : eb = 0 <;> simp [enabled, h]

/-- Settles O49: each transition's list and its step, from the power state it leaves. -/
theorem powerTransitionsRun : Obligations.PowerTransitionsRun := by
  intro s p eb rest c ends hseq hcs
  refine ⟨fun hpwr => ?hpm, fun hpwr => ?lpm, fun hpwr heb => ?sleepHigh, fun hpwr heb => ?sleepLow, fun hpwr => ?wake⟩
  case hpm =>
    refine runs_transition nofun (by simp [eventList, hpwr, c]) hseq hcs fun t htp htb => ?_
    rw [exec_hpm_of_lowPower (htp.trans hpwr), htb]
  case lpm =>
    refine runs_transition nofun (by simp [eventList, hpwr, c]) hseq hcs fun t htp htb => ?_
    rw [exec_lpm_of_highPower (htp.trans hpwr), htb]
  case sleepHigh =>
    refine runs_transition (evs := sleepInEvents s.build) nofun ?_ hseq hcs fun t htp htb => ?_
    · simp [eventList, enabled_of_ne heb, hpwr]
    · rw [exec_sleep_of_enabled heb, sleepIn_of_highPower (htp.trans hpwr), htb]
  case sleepLow =>
    refine runs_transition (evs := sleepInFromLowEvents s.build) nofun ?_ hseq hcs fun t htp htb => ?_
    · simp [eventList, enabled_of_ne heb, hpwr]
    · rw [exec_sleep_of_enabled heb, sleepIn_of_lowPower (htp.trans hpwr), htb]
  case wake =>
    refine runs_transition (evs := wakeEvents s.build) nofun ?_ hseq hcs fun t htp htb => ?_
    · simp [eventList, enabled, hpwr]
    · rw [exec_sleep_zero, wake_of_sleeping (htp.trans hpwr), htb]

/-- An operation of one command that keeps PWR: issue, completion, commit. -/
theorem runs_command {i : Instr} {p : Packet} {rest : List Bool} {s : State} {b : Byte} (hi : i ≠ .init)
    (hseq : s.seq = .exec p 0 none) (hcs : s.csN = true) (hevs : eventList i s = [.cmd b])
    (hexec : ∀ t : State, t.build = s.build → exec i t = .next (t.sequence [.cmd b] id)) (hans : AnswersOk s 1 rest) :
    execTimes i 3 s = .next { s with dc := false, answers := rest, seq := .idle, trace := s.trace ++ [(.cmd b, .ok)] } := by
  refine runs_operation hevs hseq hcs (fun h => absurd h hi) hans ?_
  exact (hexec { s.afterEvents [.cmd b] rest with seq := .exec p 1 none } rfl).trans
    (congrArg Host.Outcome.next (sequence_commit rfl le_rfl _))

/-- Settles O50: the list is the one command, whatever PWR is. -/
theorem togglesRun : Obligations.TogglesRun := by
  intro s p eb rest hseq hcs hans
  rw [← ite_enabled eb s.build.cmds.invon, ← ite_enabled eb s.build.cmds.dispon]
  refine ⟨runs_command nofun hseq hcs rfl (fun t ht => ?_) hans, runs_command nofun hseq hcs rfl (fun t ht => ?_) hans⟩
  · rw [exec, execInvert, ht]
  · rw [exec, execDispon, ht]

theorem bytes_filled_zero (n : Nat) : ((List.range n).map fun a => (Memory.filled n 0).read a) = List.replicate n 0 := by
  simp [Memory.read_filled]

/-- Settles O51: the framebuffer that FILL leaves reads 0 at every index, and DISPLAY sends what it reads. -/
theorem clearThenDisplaySendsZeros : Obligations.ClearThenDisplaySendsZeros := by
  intro s p p' rest evs hpwr hseq hcs hans
  have hrun := displayRuns { (s.setFb (Memory.filled s.build.fbLen 0)).commit with seq := .exec p' 0 none } p' rest
  simp only [State.commit_build, State.setFb_build, State.commit_fb, State.setFb_fb, bytes_filled_zero] at hrun
  exact ⟨_, _, rfl, hrun hpwr trivial hcs hans, rfl⟩

end Sys2Proof.Machine
end

section
/-!
PROOFS. The step and its inputs (20_memory.md, 30_encoding.md, 60_exceptions.md, 70_reset_and_hazards.md): a sequencer's turn, the
host's accesses, a submitted packet (rules R90, R91) and block reset (rule R340).
-/

namespace Sys2Proof.Machine

/-! ### A sequencer's turn -/

theorem step_of_turn {s : State} {rest : List Input} (hin : s.inputs = .turn :: rest) :
    step s = sequencerTurn { s with inputs := rest } := by
  simp only [step, advance, hin, takeInput]

theorem sequencerTurn_of_executing {s : State} {i : Instr} (h : Executing s i) : sequencerTurn s = exec i s := by
  obtain ⟨p, k, f, hseq, hdec⟩ := h
  simp only [sequencerTurn, hseq, hdec]

/-- Settles O6: the turn decodes the packet in SEQ, and taking the turn off the schedule changes neither SEQ nor the build. -/
theorem stepRunsDecodedOperation : Obligations.StepRunsDecodedOperation := by
  refine fun s i h => ⟨fun hin => ?_, fun rest hin => ?_⟩
  · rw [step_of_no_input hin, sequencerTurn_of_executing h]
  · have h' : Executing { s with inputs := rest } i := h
    rw [step_of_turn hin, sequencerTurn_of_executing h']

/-- Settles O14: the turn of a packet that does not decode is `raise`, and `raise_eq` says what it leaves. -/
theorem failedDecodeOnlyRecords : Obligations.FailedDecodeOnlyRecords := by
  intro s p k f c hin hseq hdec
  rw [step_of_no_input hin, sequencerTurn_of_decode_error hseq hdec, raise_eq]

/-! ### Host accesses -/

/-- Settles O12: each offset's register value, and the two writes that are ignored. -/
theorem hostReadsAndIgnoredWrites : Obligations.HostReadsAndIgnoredWrites := fun _ _ =>
  ⟨hostRead_of_some rfl, hostRead_of_some rfl, hostRead_of_some rfl, hostRead_of_some rfl, rfl, rfl⟩

theorem startPower_eq (v : Variant) (p : Packet) (w : Power) :
    startPower v p w = if decode v p.bytes p.povf = .ok .init then .initializing else w := by
  unfold startPower
  split
  next h => rw [if_pos h]
  next h => rw [if_neg h]

theorem doorbellWrite_of_idle {s : State} (hidle : s.seq = .idle) :
    doorbellWrite s = State.accept { s with pbuf := [], povf := false } ⟨s.pbuf, s.povf⟩ :=
  if_neg fun hbusy => (busy_iff s).1 hbusy hidle

/-- Settles O9: the write is `accept` of the buffer, and `startPower_eq` says what PWR becomes. -/
theorem doorbellTakesThePacket : Obligations.DoorbellTakesThePacket := by
  intro s v hidle
  have hwrite : hostWrite s 0x0C 4 v = .next (doorbellWrite s) := rfl
  rw [hwrite, doorbellWrite_of_idle hidle]
  refine ⟨_, rfl, rfl, rfl, fun hinit => ?_, fun hinit => ?_⟩
  · exact (startPower_eq ..).trans (if_pos hinit)
  · exact (startPower_eq ..).trans (if_neg hinit)

/-! ### A submitted packet -/

theorem run_succ_of_step {s t : State} (h : step s = .next t) (n : Nat) :
    Host.Core.run core (n + 1) s = Host.Core.run core n t := by
  have hstep : core.step s = .next t := h
  simp only [Host.Core.run, hstep]

/-- The write of one byte to CMD, with room for it (R90). -/
theorem step_of_cmd {s : State} {b : Byte} {rest : List Input} (hidle : s.seq = .idle) (hroom : s.pbuf.length < Config.pktMax)
    (hin : s.inputs = .host (.write 0x08 4 (b.setWidth 32)) :: rest) :
    step s = .next { s with pbuf := s.pbuf ++ [b], inputs := rest } := by
  have hwrite : step s = .next (cmdWrite { s with inputs := rest } (b.setWidth 32)) := step_of_host hin
  have hbyte : (b.setWidth 32).setWidth 8 = b := BitVec.setWidth_setWidth_of_le b (by decide)
  have hidle' : State.seq { s with inputs := rest } = .idle := hidle
  rw [hwrite, cmdWrite_of_idle hidle', if_pos hroom, hbyte]

/-- The write to DOORBELL (R91). -/
theorem step_of_doorbell {s : State} {v : Word} {rest : List Input} (hidle : s.seq = .idle)
    (hin : s.inputs = .host (.write 0x0C 4 v) :: rest) :
    step s = .next { s with
      pbuf := [], povf := false, seq := .exec ⟨s.pbuf, s.povf⟩ 0 none, inputs := rest
      pwr := if decode s.build.variant s.pbuf s.povf = .ok .init then .initializing else s.pwr } := by
  have hwrite : step s = .next (doorbellWrite { s with inputs := rest }) := step_of_host hin
  have hidle' : State.seq { s with inputs := rest } = .idle := hidle
  rw [hwrite, doorbellWrite_of_idle hidle', State.accept, startPower_eq]

theorem submission_cons (b : Byte) (p : List Byte) (rest : List Input) :
    submission (b :: p) ++ rest = .host (.write 0x08 4 (b.setWidth 32)) :: (submission p ++ rest) := rfl

/-- The rest of a submission, after the bytes already in the buffer. -/
theorem run_submission {p : List Byte} {rest : List Input} {s : State} (hidle : s.seq = .idle)
    (hroom : s.pbuf.length + p.length ≤ Config.pktMax) (hin : s.inputs = submission p ++ rest) :
    Host.Core.run core (p.length + 1) s = .next { s with
      pbuf := [], povf := false, seq := .exec ⟨s.pbuf ++ p, s.povf⟩ 0 none, inputs := rest
      pwr := if decode s.build.variant (s.pbuf ++ p) s.povf = .ok .init then .initializing else s.pwr } := by
  induction p generalizing s with
  | nil =>
    rw [List.append_nil, List.length_nil, run_succ_of_step (step_of_doorbell hidle hin)]
    rfl
  | cons b p ih =>
    rw [List.length_cons] at hroom
    rw [submission_cons] at hin
    rw [List.length_cons, run_succ_of_step (step_of_cmd hidle (by omega) hin),
      ih (s := { s with pbuf := s.pbuf ++ [b], inputs := _ }) hidle ?_ rfl]
    · simp only [List.append_assoc, List.singleton_append]
    · simp only [List.length_append, List.length_singleton]
      omega

/-- Settles O7: the submission's bytes fill the empty buffer, which fits them all, and DOORBELL takes it. -/
theorem submittedPacketStarts : Obligations.SubmittedPacketStarts := by
  intro s p rest hidle hpbuf hpovf hlen hin
  rw [run_submission hidle (by rw [hpbuf, List.length_nil, Nat.zero_add]; exact hlen) hin, hpbuf, hpovf, List.nil_append]

/-! ### Block reset -/

theorem cutTrace_of_not_inFlight {s : State} (h : ∀ p k e, s.seq ≠ .exec p k (some e)) : s.cutTrace = s.trace := by
  unfold State.cutTrace
  split
  next p k e hseq => exact absurd hseq (h p k e)
  next => rfl
  next => rfl

theorem cutTrace_of_inFlight {s : State} {p : Packet} {k : Nat} {e : TxEvent} (h : s.seq = .exec p k (some e)) :
    s.cutTrace = s.trace ++ [(e, .cut)] := by
  simp only [State.cutTrace, h]

theorem step_of_blockReset {s : State} {rest : List Input} (hin : s.inputs = .blockReset :: rest) :
    step s = .next (State.blockReset { s with inputs := rest }) := by
  simp only [step, advance, hin, takeInput]

/-- Settles O53: the step is `blockReset`, whose trace is `cutTrace`. -/
theorem blockResetFromAnyState : Obligations.BlockResetFromAnyState := by
  intro s rest hin
  exact ⟨_, step_of_blockReset hin, rfl, cutTrace_of_not_inFlight (s := { s with inputs := rest }),
    fun _ _ _ => cutTrace_of_inFlight (s := { s with inputs := rest })⟩

end Sys2Proof.Machine
end

section
/-!
PROOFS. The invariant of the machine: it holds at reset, and every step keeps it (10_state.md rules R33, R39, R43 to R45, R61).
A state is shown to have it in one of two ways: the block is idle (`blockInv_of_idle`), or it is further on in the operation it was
executing (`BlockInv.progress`).
-/

namespace Sys2Proof.Machine

/-! ### The step of an event list -/

/-- What the sequencer's next step in the event list `evs` does (R44, R75, R77, R308). -/
inductive SequenceCase (s : State) (evs : List TxEvent) (atCommit : State → State) : State → Prop
  | rested (hseq : s.seq = .idle) : SequenceCase s evs atCommit s
  | issued (p : Packet) (k : Nat) (e : TxEvent) (hseq : s.seq = .exec p k none) (he : evs[k]? = some e) :
      SequenceCase s evs atCommit (s.issue p k e)
  | completed (p : Packet) (k : Nat) (e : TxEvent) (hseq : s.seq = .exec p k (some e)) (u : State)
      (hu : u = s ∨ u = s.takeAnswer) :
      SequenceCase s evs atCommit (u.eventOk p k e)
  | failed (p : Packet) (k : Nat) (e : TxEvent) (hseq : s.seq = .exec p k (some e)) :
      SequenceCase s evs atCommit (s.takeAnswer.eventFail e)
  | committed (p : Packet) (k : Nat) (hseq : s.seq = .exec p k none) : SequenceCase s evs atCommit (atCommit s).commit

theorem sequence_cases (s : State) (evs : List TxEvent) (atCommit : State → State) :
    SequenceCase s evs atCommit (s.sequence evs atCommit) := by
  unfold State.sequence
  split
  next hseq => exact .rested hseq
  next p k e hseq =>
    by_cases hfail : e.canFail = true ∧ s.nextAnswer = false
    · rw [complete_fail p k hfail.1 hfail.2]
      exact .failed p k e hseq
    · rw [complete_ok p k (by simpa using hfail)]
      refine .completed p k e hseq _ ?_
      split
      · exact .inr rfl
      · exact .inl rfl
  next p k hseq =>
    split
    next e he => exact .issued p k e hseq he
    next => exact .committed p k hseq

/-! ### What the invariant says of an executing block -/

theorem Executing.unique {s : State} {i j : Instr} (hi : Executing s i) (hj : Executing s j) : i = j := by
  obtain ⟨p, k, f, hseq, hdec⟩ := hi
  obtain ⟨p', k', f', hseq', hdec'⟩ := hj
  obtain ⟨rfl, -, -⟩ := Seq.exec.inj (hseq.symm.trans hseq')
  exact Except.ok.inj (hdec.symm.trans hdec')

theorem not_executing_of_idle {s : State} (h : s.seq = .idle) (i : Instr) : ¬ Executing s i := by
  rintro ⟨p, k, f, hseq, -⟩
  cases h.symm.trans hseq

theorem Executing.seq_iff {s : State} {i : Instr} {p : Packet} {k : Nat} {f : Option TxEvent} (h : s.seq = .exec p k f) :
    Executing s i ↔ decode s.build.variant p.bytes p.povf = .ok i := by
  refine ⟨?_, fun hdec => ⟨p, k, f, h, hdec⟩⟩
  rintro ⟨p', k', f', hseq, hdec⟩
  obtain ⟨rfl, -, -⟩ := Seq.exec.inj (h.symm.trans hseq)
  exact hdec

section
variable {s : State} {i : Instr} {p : Packet} {k : Nat} {f : Option TxEvent}

theorem BlockInv.on_list (h : BlockInv s) (hi : Executing s i) (hseq : s.seq = .exec p k f) :
    k ≤ (eventList i s).length ∧ ∀ e, f = some e → (eventList i s)[k]? = some e := by
  have hlist := h.onList p k f hseq
  rw [(Executing.seq_iff hseq).1 hi] at hlist
  exact hlist

theorem BlockInv.undecoded (h : BlockInv s) {c : ErrCode} (hseq : s.seq = .exec p k f)
    (hdec : decode s.build.variant p.bytes p.povf = .error c) : f = none := by
  have hlist := h.onList p k f hseq
  rw [hdec] at hlist
  exact hlist.2

theorem BlockInv.csN_of_no_event (h : BlockInv s) (hseq : ∀ p k e, s.seq ≠ .exec p k (some e)) : s.csN = true := by
  by_contra hcs
  obtain ⟨p, k, e, he, -⟩ := h.busSelect.1 (by simpa using hcs)
  exact hseq p k e he

theorem BlockInv.csN_of_inFlight (h : BlockInv s) {e : TxEvent} (hseq : s.seq = .exec p k (some e)) : s.csN = !e.isFrame := by
  have hcs : s.csN = false ↔ e.isFrame = true := by
    refine h.busSelect.trans ?_
    simp [hseq]
  cases hframe : e.isFrame <;> simp_all

/-- An operation without events has none in flight. -/
theorem BlockInv.csN_of_no_events (h : BlockInv s) (hi : Executing s i) (hevs : eventList i s = []) : s.csN = true := by
  refine h.csN_of_no_event fun p k e hseq => ?_
  have he := (h.on_list hi hseq).2 e rfl
  rw [hevs] at he
  cases he

theorem BlockInv.not_initializing (h : BlockInv s) (hi : Executing s i) (hne : i ≠ .init) : s.pwr ≠ .initializing :=
  fun hpwr => hne (hi.unique (h.initializing.1 hpwr))

theorem BlockInv.not_initializing_of_idle (h : BlockInv s) (hidle : s.seq = .idle) : s.pwr ≠ .initializing :=
  fun hpwr => not_executing_of_idle hidle .init (h.initializing.1 hpwr)

end

/-! ### Showing the invariant -/

theorem blockInv_of_idle {t : State} (hseq : t.seq = .idle) (hfb : FbCanonical t) (hbuffer : BufferBounded t)
    (herr : ErrConsistent t) (hpwr : t.pwr ≠ .initializing) (hcs : t.csN = true) : BlockInv t where
  fb := hfb
  buffer := hbuffer
  err := herr
  initializing := iff_of_false hpwr (not_executing_of_idle hseq .init)
  busSelect := by simp [BusSelectTracksFrame, hcs, hseq]
  onList := by simp [OnEventList, hseq]

/-- Further on in the same operation, with another event in flight or none. -/
theorem BlockInv.progress {s t : State} (h : BlockInv s) {i : Instr} (hi : Executing s i) {p : Packet} {k k' : Nat}
    {f f' : Option TxEvent} (hseq : s.seq = .exec p k f)
    (ht : t = { s with seq := .exec p k' f', csN := t.csN, rstN := t.rstN, dc := t.dc, trace := t.trace, answers := t.answers,
                       freeCount := t.freeCount })
    (hcs : t.csN = false ↔ ∃ e, f' = some e ∧ e.isFrame = true) (hk : k' ≤ (eventList i s).length)
    (hf : ∀ e, f' = some e → (eventList i s)[k']? = some e) : BlockInv t := by
  have hdec := (Executing.seq_iff hseq).1 hi
  have hseq' : t.seq = .exec p k' f' := by rw [ht]
  have hbuild : t.build = s.build := by rw [ht]
  have hpwr : t.pwr = s.pwr := by rw [ht]
  have hlist : eventList i t = eventList i s := eventList_congr hbuild (by rw [ht]) hpwr i
  refine ⟨?fb, ?buffer, ?err, ?initializing, ?busSelect, ?onList⟩
  case fb => rw [ht]; exact h.fb
  case buffer => rw [ht]; exact h.buffer
  case err => rw [ht]; exact h.err
  case initializing =>
    rw [InitializingIffInit, hpwr, Executing.seq_iff hseq', hbuild, ← Executing.seq_iff hseq]
    exact h.initializing
  case busSelect => simp [BusSelectTracksFrame, hcs, hseq']
  case onList =>
    intro p' k'' f'' hexec
    obtain ⟨rfl, rfl, rfl⟩ := Seq.exec.inj (hseq'.symm.trans hexec)
    rw [hbuild, hdec]
    simp only [hlist]
    exact ⟨hk, hf⟩

/-! ### Steps of an operation -/

theorem FbCanonical.congr {s t : State} (h : FbCanonical s) (hfb : t.fb = s.fb) (hbuild : t.build = s.build) : FbCanonical t := by
  rw [FbCanonical, hfb, hbuild]
  exact h

theorem BufferBounded.congr {s t : State} (h : BufferBounded s) (hpbuf : t.pbuf = s.pbuf) (hpovf : t.povf = s.povf) :
    BufferBounded t := by
  rw [BufferBounded, State.plen, hpbuf, hpovf]
  exact h

/-- Recording an error keeps ERR and ERR_CODE consistent (R39). -/
theorem ErrConsistent.of_record {s t : State} (h : ErrConsistent s) {c : ErrCode} (hc : c ≠ .noError) (herr : t.err = true)
    (hcode : t.errCode = if s.err then s.errCode else c) : ErrConsistent t := by
  refine iff_of_true herr ?_
  rw [hcode]
  split
  next hs => exact h.1 hs
  next => exact hc

theorem BlockInv.raise {s : State} (h : BlockInv s) {c : ErrCode} (hc : c ≠ .noError) (hpwr : s.pwr ≠ .initializing)
    (hcs : s.csN = true) : BlockInv (s.raise c) :=
  blockInv_of_idle (State.raise_seq ..) (h.fb.congr (State.raise_fb ..) (State.raise_build ..))
    (h.buffer.congr (State.raise_pbuf ..) (State.raise_povf ..)) (h.err.of_record hc (State.raise_err ..) (State.raise_errCode ..))
    (by rwa [State.raise_pwr]) (by rwa [State.raise_csN])

theorem BlockInv.eventFail {s u : State} (h : BlockInv s) {p : Packet} {k : Nat} {e : TxEvent} (hseq : s.seq = .exec p k (some e))
    (hu : u = s.takeAnswer) : BlockInv (u.eventFail e) := by
  subst hu
  refine blockInv_of_idle (State.eventFail_seq ..) (h.fb.congr (by simp) (by simp)) (h.buffer.congr (by simp) (by simp))
    (h.err.of_record (c := .transportFail) nofun (by simp) (by simp)) (by simp) ?_
  simp [h.csN_of_inFlight hseq]

/-- A step on the operation's event list keeps the invariant, where the commit may set PWR but not to INITIALIZING. -/
theorem BlockInv.sequence {s t : State} (h : BlockInv s) {i : Instr} (hi : Executing s i) {atCommit : State → State} {w : Power}
    (hw : w ≠ .initializing) (hcommit : atCommit s = s.setPwr w) (hcase : SequenceCase s (eventList i s) atCommit t) :
    BlockInv t := by
  cases hcase with
  | rested => exact h
  | issued p k e hseq he =>
    have hcs := h.csN_of_no_event (by simp [hseq])
    refine h.progress hi hseq (by rw [issue_eq]) ?_ (h.on_list hi hseq).1 fun e' he' => ?_
    · rw [issue_eq]
      simp [hcs]
    · cases he'
      exact he
  | completed p k e hseq u hu =>
    have he := (h.on_list hi hseq).2 e rfl
    have hcs : (u.csN || e.isFrame) = true := by
      obtain rfl | rfl := hu <;> simp [h.csN_of_inFlight hseq]
    refine h.progress (k' := k + 1) (f' := none) hi hseq ?_ ?_ (List.getElem?_eq_some_iff.1 he).1 nofun
    · obtain rfl | rfl := hu
      · rfl
      · rw [takeAnswer_eq]
        rfl
    · simp [hcs]
  | failed p k e hseq => exact h.eventFail hseq rfl
  | committed p k hseq =>
    have hcs := h.csN_of_no_event (by simp [hseq])
    rw [hcommit]
    exact blockInv_of_idle rfl h.fb h.buffer h.err hw hcs

theorem exec_keeps_inv {i : Instr} {s t : State} (h : BlockInv s) (hi : Executing s i) (hexec : exec i s = .next t) :
    BlockInv t := by
  have hpwr := fun hne : i ≠ .init => h.not_initializing hi hne
  have hcs := h.csN_of_no_events hi
  cases exec_cases hexec with
  | drew m hdraws hevs hm =>
    have hne : i ≠ .init := by rintro rfl; cases hdraws
    exact blockInv_of_idle rfl (hm h.fb) h.buffer h.err (hpwr hne) (hcs hevs)
  | rotated a ha =>
    subst ha
    exact blockInv_of_idle rfl h.fb h.buffer h.err (hpwr nofun) (hcs rfl)
  | gaveResult v hv =>
    obtain ⟨x, y, rfl⟩ | ⟨chars, rfl⟩ := hv
    all_goals exact blockInv_of_idle rfl h.fb h.buffer h.err (hpwr nofun) (hcs rfl)
  | cleared hclear =>
    subst hclear
    exact blockInv_of_idle rfl h.fb h.buffer (by simp [ErrConsistent]) (hpwr nofun) (hcs rfl)
  | idled hne hevs => exact blockInv_of_idle rfl h.fb h.buffer h.err (hpwr hne) (hcs hevs)
  | raised c hc hne hevs => exact h.raise hc (hpwr hne) (hcs hevs)
  | init hinit =>
    subst hinit
    have hset : s.setPwr .initializing = s := by
      rw [← h.initializing.2 hi]
      rfl
    rw [hset]
    exact h.sequence hi (w := .highPower) nofun rfl (sequence_cases ..)
  | emits hne => exact h.sequence hi (hpwr hne) rfl (sequence_cases ..)
  | switches target hne hedge htarget => exact h.sequence hi htarget rfl (sequence_cases ..)

/-! ### Every step -/

theorem turn_keeps_inv {s t : State} (h : BlockInv s) (hturn : sequencerTurn s = .next t) : BlockInv t := by
  obtain ⟨-, rfl⟩ | ⟨p, k, f, c, hseq, hdec, rfl⟩ | ⟨i, hi, hexec⟩ := turn_cases hturn
  · exact h
  · have hf := h.undecoded hseq hdec
    subst hf
    refine h.raise (decode_error_ne_noError hdec) (fun hpwr => ?_) (h.csN_of_no_event (by simp [hseq]))
    have hinit := (Executing.seq_iff hseq).1 (h.initializing.1 hpwr)
    rw [hdec] at hinit
    cases hinit
  · exact exec_keeps_inv h hi hexec

/-- An idle block that takes a packet: no event of it was issued, and PWR is INITIALIZING exactly for an INIT (R91). -/
theorem BlockInv.started {s : State} (h : BlockInv s) (hidle : s.seq = .idle) (p : Packet) :
    BlockInv (State.accept { s with pbuf := [], povf := false } p) := by
  have hcs : s.csN = true := h.csN_of_no_event (by simp [hidle])
  have hpwr := h.not_initializing_of_idle hidle
  refine ⟨h.fb, ⟨Nat.zero_le _, nofun⟩, h.err, ?initializing, ?busSelect, fun p' k f hseq => ?onList⟩
  case initializing =>
    rw [InitializingIffInit, Executing.seq_iff (State.accept_seq ..), State.accept_pwr, startPower_eq]
    split
    next hinit => exact iff_of_true rfl hinit
    next hinit => exact iff_of_false hpwr hinit
  case busSelect => simp [BusSelectTracksFrame, hcs]
  case onList =>
    obtain ⟨rfl, rfl, rfl⟩ := Seq.exec.inj ((State.accept_seq ..).symm.trans hseq)
    split
    · exact ⟨Nat.zero_le _, nofun⟩
    · exact ⟨rfl, rfl⟩

theorem hostCase_keeps_inv {s t : State} (h : BlockInv s) (hcase : HostCase s t) : BlockInv t := by
  obtain ⟨hfb, ⟨hlen, hfull⟩, herr, hinit, hbus, hlist⟩ := id h
  cases hcase with
  | observed v => exact ⟨hfb, ⟨hlen, hfull⟩, herr, hinit, hbus, hlist⟩
  | ignored => exact ⟨hfb, ⟨hlen, hfull⟩, herr, hinit, hbus, hlist⟩
  | overrun hbusy =>
    rw [recordErr_eq]
    exact ⟨hfb, ⟨hlen, hfull⟩, herr.of_record (c := .overrun) nofun rfl rfl, hinit, hbus, hlist⟩
  | appended hidle hroom b =>
    refine ⟨hfb, ⟨?_, fun hpovf => ?_⟩, herr, hinit, hbus, hlist⟩
    · rw [State.plen, List.length_append]
      exact hroom
    · exact absurd (hfull hpovf) hroom.ne
  | overflowed hidle hfilled => exact ⟨hfb, ⟨hlen, fun _ => le_antisymm hlen hfilled⟩, herr, hinit, hbus, hlist⟩
  | started hidle => exact h.started hidle _

theorem blockInv_resetOf (b : Build) : BlockInv (State.resetOf b) :=
  blockInv_of_idle rfl ⟨rfl, rfl⟩ ⟨Nat.zero_le _, nofun⟩ (by simp [ErrConsistent, State.resetOf]) nofun rfl

/-- Settles O54: the reset state is idle, and what it holds is in range. -/
theorem invariantHoldsAtReset : Obligations.InvariantHoldsAtReset := ⟨blockInv_resetOf _, blockInv_resetOf⟩

/-- The invariant does not depend on the inputs still to come. -/
theorem BlockInv.withInputs {s : State} (h : BlockInv s) (rest : List Input) : BlockInv { s with inputs := rest } :=
  ⟨h.fb, h.buffer, h.err, h.initializing, h.busSelect, h.onList⟩

/-- A block reset leaves the reset state but for what is not the block's. -/
theorem blockInv_blockReset (s : State) : BlockInv s.blockReset :=
  blockInv_of_idle rfl ⟨rfl, rfl⟩ ⟨Nat.zero_le _, nofun⟩ (by simp [ErrConsistent, State.blockReset, State.resetOf]) nofun
    rfl

/-- Settles O55: by what a step can do, the turn of the sequencer by what the operation's step can do. -/
theorem stepKeepsInvariant : Obligations.StepKeepsInvariant := by
  intro s t h hstep
  obtain ⟨-, hturn⟩ | ⟨rest, -, hturn⟩ | ⟨a, rest, -, hcase⟩ | ⟨rest, -, rfl⟩ := step_cases hstep
  · exact turn_keeps_inv h hturn
  · exact turn_keeps_inv (h.withInputs rest) hturn
  · exact hostCase_keeps_inv (h.withInputs rest) hcase
  · exact blockInv_blockReset _

end Sys2Proof.Machine
end

section
/-!
PROOFS. The whole machine: which steps change PWR, FB, ROT and RESULT (10_state.md rules R32 to R46, 41_protocol.md rule R191), that
only an illegal access stops it (20_memory.md rules R62, R65), and that every operation ends (20_memory.md rule R75).
-/

namespace Sys2Proof.Machine

/-! ### Changes of PWR -/

/-- PWR stays, or changes along an edge of R191. -/
def PowerMoves (v w : Power) : Prop := w = v ∨ PowerEdge v w

theorem powerMoves_initializing (v : Power) : PowerMoves v .initializing := by
  cases v <;> simp [PowerMoves, PowerEdge]

theorem powerMoves_uninitialized (v : Power) : PowerMoves v .uninitialized := by
  cases v <;> simp [PowerMoves, PowerEdge]

/-- A step of an event list leaves PWR, or fails, or commits. -/
theorem SequenceCase.powerMoves {s t : State} {evs : List TxEvent} {atCommit : State → State} (h : SequenceCase s evs atCommit t)
    (hcommit : PowerMoves s.pwr (atCommit s).pwr) : PowerMoves s.pwr t.pwr := by
  cases h with
  | rested => exact .inl rfl
  | issued => exact .inl (State.issue_pwr ..)
  | completed p k e hseq u hu =>
    obtain rfl | rfl := hu <;> exact .inl (by simp)
  | failed p k e hseq =>
    rw [State.eventFail_pwr]
    exact powerMoves_uninitialized s.pwr
  | committed => exact hcommit

theorem exec_powerMoves {i : Instr} {s t : State} (h : BlockInv s) (hi : Executing s i) (hexec : exec i s = .next t) :
    PowerMoves s.pwr t.pwr := by
  cases exec_cases hexec with
  | drew | rotated | gaveResult | cleared | idled => exact .inl rfl
  | raised => exact .inl (State.raise_pwr ..)
  | init hinit =>
    subst hinit
    have hpwr := h.initializing.2 hi
    rw [hpwr]
    exact (sequence_cases (s.setPwr .initializing) _ _).powerMoves (.inr (by simp [PowerEdge]))
  | emits => exact (sequence_cases ..).powerMoves (.inl rfl)
  | switches target hne hedge => exact (sequence_cases ..).powerMoves (.inr hedge)

theorem turn_powerMoves {s t : State} (h : BlockInv s) (hturn : sequencerTurn s = .next t) : PowerMoves s.pwr t.pwr := by
  obtain ⟨-, rfl⟩ | ⟨p, k, f, c, -, -, rfl⟩ | ⟨i, hi, hexec⟩ := turn_cases hturn
  · exact .inl rfl
  · exact .inl (State.raise_pwr ..)
  · exact exec_powerMoves h hi hexec

theorem hostCase_powerMoves {s t : State} (hcase : HostCase s t) : PowerMoves s.pwr t.pwr := by
  cases hcase with
  | observed | ignored | appended | overflowed => exact .inl rfl
  | overrun => exact .inl (State.recordErr_pwr ..)
  | started =>
    rw [State.accept_pwr, startPower_eq]
    split
    · exact powerMoves_initializing s.pwr
    · exact .inl rfl

/-- Settles O56: a turn moves PWR along its operation's edge, a host access only by starting an INIT. -/
theorem powerChangesAreEdges : Obligations.PowerChangesAreEdges := by
  intro s t h hstep
  rw [← or_assoc]
  obtain ⟨-, hturn⟩ | ⟨rest, -, hturn⟩ | ⟨a, rest, -, hcase⟩ | ⟨rest, hin, rfl⟩ := step_cases hstep
  · exact .inl (turn_powerMoves h hturn)
  · exact .inl (turn_powerMoves (s := { s with inputs := rest }) (h.withInputs rest) hturn)
  · exact .inl (hostCase_powerMoves (s := { s with inputs := rest }) hcase)
  · exact .inr ⟨by simp [ResetNext, hin], rfl⟩

/-! ### The writers of the registers -/

/-- The build, FB, ROT and RESULT are as they were. -/
def KeepsRegisters (s t : State) : Prop := t.build = s.build ∧ t.fb = s.fb ∧ t.rot = s.rot ∧ t.result = s.result

/-- The build is as it was, and FB, ROT and RESULT where operation `i` is not one that writes them (R32, R35, R41, R46). -/
def WritesOwnRegisters (i : Instr) (s t : State) : Prop :=
  t.build = s.build ∧ (t.fb ≠ s.fb → writesFb i = true) ∧ (t.rot ≠ s.rot → ∃ a, i = .setRot a) ∧
    (t.result ≠ s.result → (∃ x y, i = .readPixel x y) ∨ ∃ chars, i = .stringWidth chars)

theorem KeepsRegisters.writesOwn {s t : State} (h : KeepsRegisters s t) (i : Instr) : WritesOwnRegisters i s t := by
  obtain ⟨hbuild, hfb, hrot, hresult⟩ := h
  exact ⟨hbuild, fun hne => absurd hfb hne, fun hne => absurd hrot hne, fun hne => absurd hresult hne⟩

theorem SequenceCase.keepsRegisters {s t : State} {evs : List TxEvent} {atCommit : State → State}
    (h : SequenceCase s evs atCommit t) (hcommit : KeepsRegisters s (atCommit s)) : KeepsRegisters s t := by
  cases h with
  | rested => exact ⟨rfl, rfl, rfl, rfl⟩
  | issued => exact ⟨by simp, by simp, by simp, by simp⟩
  | completed p k e hseq u hu =>
    obtain rfl | rfl := hu <;> exact ⟨by simp, by simp, by simp, by simp⟩
  | failed => exact ⟨by simp, by simp, by simp, by simp⟩
  | committed => exact hcommit

theorem exec_writesOwnRegisters {i : Instr} {s t : State} (h : exec i s = .next t) : WritesOwnRegisters i s t := by
  cases exec_cases h with
  | drew m hi => exact ⟨rfl, fun _ => hi, fun hne => absurd rfl hne, fun hne => absurd rfl hne⟩
  | rotated a hi => exact ⟨rfl, fun hne => absurd rfl hne, fun _ => ⟨a, hi⟩, fun hne => absurd rfl hne⟩
  | gaveResult v hi => exact ⟨rfl, fun hne => absurd rfl hne, fun hne => absurd rfl hne, fun _ => hi⟩
  | cleared | idled => exact KeepsRegisters.writesOwn ⟨rfl, rfl, rfl, rfl⟩ i
  | raised => exact KeepsRegisters.writesOwn ⟨by simp, by simp, by simp, by simp⟩ i
  | init => exact ((sequence_cases (s.setPwr .initializing) _ _).keepsRegisters ⟨rfl, rfl, rfl, rfl⟩).writesOwn i
  | emits => exact ((sequence_cases ..).keepsRegisters ⟨rfl, rfl, rfl, rfl⟩).writesOwn i
  | switches => exact ((sequence_cases ..).keepsRegisters ⟨rfl, rfl, rfl, rfl⟩).writesOwn i

theorem turn_keepsRegisters_or_writesOwn {s t : State} (h : sequencerTurn s = .next t) :
    KeepsRegisters s t ∨ ∃ i, Executing s i ∧ WritesOwnRegisters i s t := by
  obtain ⟨-, rfl⟩ | ⟨p, k, f, c, -, -, rfl⟩ | ⟨i, hi, hexec⟩ := turn_cases h
  · exact .inl ⟨rfl, rfl, rfl, rfl⟩
  · exact .inl ⟨by simp, by simp, by simp, by simp⟩
  · exact .inr ⟨i, hi, exec_writesOwnRegisters hexec⟩

theorem hostCase_keepsRegisters {s t : State} (h : HostCase s t) : KeepsRegisters s t := by
  cases h with
  | observed | ignored | appended | overflowed | started => exact ⟨rfl, rfl, rfl, rfl⟩
  | overrun => exact ⟨by simp, by simp, by simp, by simp⟩

/-- A step that is no block reset keeps the registers, or is a turn in which the operation writes its own. -/
theorem step_keepsRegisters_or_writesOwn {s t : State} (h : step s = .next t) (hreset : ¬ ResetNext s) :
    KeepsRegisters s t ∨ (SequencersTurn s ∧ ∃ i, Executing s i ∧ WritesOwnRegisters i s t) := by
  obtain ⟨hin, hturn⟩ | ⟨rest, hin, hturn⟩ | ⟨a, rest, -, hcase⟩ | ⟨rest, hin, -⟩ := step_cases h
  · exact (turn_keepsRegisters_or_writesOwn hturn).imp_right fun hown => ⟨.inl hin, hown⟩
  · exact (turn_keepsRegisters_or_writesOwn hturn).imp id fun hown => ⟨.inr (by simp [hin]), hown⟩
  · exact .inl (hostCase_keepsRegisters (s := { s with inputs := rest }) hcase)
  · exact absurd (by simp [ResetNext, hin]) hreset

theorem turn_build {s t : State} (h : sequencerTurn s = .next t) : t.build = s.build := by
  obtain ⟨hbuild, -⟩ | ⟨i, -, hbuild, -⟩ := turn_keepsRegisters_or_writesOwn h
  all_goals exact hbuild

theorem step_build {s t : State} (h : step s = .next t) : t.build = s.build := by
  obtain ⟨-, hturn⟩ | ⟨rest, -, hturn⟩ | ⟨a, rest, -, hcase⟩ | ⟨rest, -, rfl⟩ := step_cases h
  · exact turn_build hturn
  · exact turn_build (s := { s with inputs := rest }) hturn
  · exact (hostCase_keepsRegisters (s := { s with inputs := rest }) hcase).1
  · rfl

/-- Settles O57: a register that changed was written by the operation executing, in the sequencer's turn. -/
theorem registersHaveTheirWriters : Obligations.RegistersHaveTheirWriters := by
  refine ⟨fun s t => step_build, fun s t h hreset => ?_⟩
  obtain ⟨-, hfb, hrot, hresult⟩ | ⟨hturn, i, hi, -, hfb, hrot, hresult⟩ := step_keepsRegisters_or_writesOwn h hreset
  · exact ⟨fun hne => absurd hfb hne, fun hne => absurd hrot hne, fun hne => absurd hresult hne⟩
  · refine ⟨fun hne => ⟨hturn, i, hi, hfb hne⟩, fun hne => ?_, fun hne => ?_⟩
    · obtain ⟨a, rfl⟩ := hrot hne
      exact ⟨hturn, a, hi⟩
    · refine ⟨hturn, ?_⟩
      obtain ⟨x, y, rfl⟩ | ⟨chars, rfl⟩ := hresult hne
      · exact .inl ⟨x, y, hi⟩
      · exact .inr ⟨chars, hi⟩

/-! ### What stops the machine -/

theorem turn_isNext {s : State} (hfont : s.build.font.Conforming) : ∃ t, sequencerTurn s = .next t := by
  cases hseq : s.seq with
  | idle => exact ⟨s, by simp only [sequencerTurn, hseq]⟩
  | exec p k f =>
    cases hdec : decode s.build.variant p.bytes p.povf with
    | error c => exact ⟨_, sequencerTurn_of_decode_error hseq hdec⟩
    | ok i =>
      rw [sequencerTurn_of_executing ⟨p, k, f, hseq, hdec⟩]
      exact exec_isNext fun _ => hfont

theorem step_isNext_or_refuses {s : State} (hfont : s.build.font.Conforming) :
    (∃ t, step s = .next t) ∨
      (step s = .refused .hostAccess ∧ ∃ a rest, s.inputs = .host a :: rest ∧ IllegalAccess a) := by
  match hin : s.inputs with
  | [] =>
    rw [step_of_no_input hin]
    exact .inl (turn_isNext hfont)
  | .turn :: rest =>
    rw [step_of_turn hin]
    exact .inl (turn_isNext (s := { s with inputs := rest }) hfont)
  | .blockReset :: rest => exact .inl ⟨_, step_of_blockReset hin⟩
  | .host a :: rest =>
    rw [step_of_host hin]
    by_cases hlegal : IllegalAccess a
    · exact .inr ⟨hostAccess_of_illegal hlegal _, a, rest, rfl, hlegal⟩
    · exact .inl (hostAccess_of_legal hlegal _)

/-- Settles O59: with a conforming font a step answers next, or is the refusal of an illegal access. -/
theorem onlyIllegalAccessStops : Obligations.OnlyIllegalAccessStops := by
  intro s hfont
  obtain ⟨t, hnext⟩ | ⟨hrefused, hillegal⟩ := step_isNext_or_refuses hfont
  · rw [hnext]
    exact ⟨nofun, nofun⟩
  · rw [hrefused]
    exact ⟨nofun, fun _ _ => hillegal⟩

/-! ### Every operation ends -/

/-- The steps an operation with events `evs` still takes, if none of them fails (R44, R75). -/
def stepsLeft (evs : List TxEvent) (done : Nat) (inFlight : Option TxEvent) : Nat :=
  2 * (evs.length - done) + if inFlight = none then 1 else 0

/-- The block stays where it is but is further on in its operation `p`, with a list of `evs`. -/
def Advances (evs : List TxEvent) (p : Packet) (k : Nat) (f : Option TxEvent) (s t : State) : Prop :=
  t.inputs = s.inputs ∧ t.build = s.build ∧ t.fb = s.fb ∧ t.pwr = s.pwr ∧
    ∃ k' f', t.seq = .exec p k' f' ∧ stepsLeft evs k' f' < stepsLeft evs k f

theorem SequenceCase.ends_or_advances {s t : State} {evs : List TxEvent} {atCommit : State → State}
    (h : SequenceCase s evs atCommit t) {p : Packet} {k : Nat} {f : Option TxEvent} (hseq : s.seq = .exec p k f)
    (hf : ∀ e, f = some e → evs[k]? = some e) : t.seq = .idle ∨ Advances evs p k f s t := by
  cases h with
  | rested hidle => exact .inl hidle
  | issued p' k' e hseq' he =>
    obtain ⟨rfl, rfl, rfl⟩ := Seq.exec.inj (hseq.symm.trans hseq')
    refine .inr ⟨by simp, by simp, by simp, by simp, k, some e, by simp, ?_⟩
    simp [stepsLeft]
  | completed p' k' e hseq' u hu =>
    obtain ⟨rfl, rfl, rfl⟩ := Seq.exec.inj (hseq.symm.trans hseq')
    have hk : k < evs.length := (List.getElem?_eq_some_iff.1 (hf e rfl)).1
    have hfewer : stepsLeft evs (k + 1) none < stepsLeft evs k (some e) := by
      simp only [stepsLeft, if_true, reduceCtorEq, if_false]
      omega
    obtain rfl | rfl := hu <;> exact .inr ⟨by simp, by simp, by simp, by simp, k + 1, none, by simp, hfewer⟩
  | failed => exact .inl (State.eventFail_seq ..)
  | committed => exact .inl rfl

theorem exec_ends_or_advances {i : Instr} {s t : State} {p : Packet} {k : Nat} {f : Option TxEvent} (h : BlockInv s)
    (hi : Executing s i) (hseq : s.seq = .exec p k f) (hexec : exec i s = .next t) :
    t.seq = .idle ∨ Advances (eventList i s) p k f s t := by
  have hlist := (h.on_list hi hseq).2
  cases exec_cases hexec with
  | drew | rotated | gaveResult | cleared | idled => exact .inl rfl
  | raised => exact .inl (State.raise_seq ..)
  | init hinit =>
    subst hinit
    rw [← h.initializing.2 hi]
    exact (sequence_cases ..).ends_or_advances hseq hlist
  | emits => exact (sequence_cases ..).ends_or_advances hseq hlist
  | switches => exact (sequence_cases ..).ends_or_advances hseq hlist

theorem stepsLeft_pos {evs : List TxEvent} {k : Nat} {f : Option TxEvent} (h : ∀ e, f = some e → evs[k]? = some e) :
    0 < stepsLeft evs k f := by
  cases f with
  | none => simp [stepsLeft]
  | some e =>
    have hk : k < evs.length := (List.getElem?_eq_some_iff.1 (h e rfl)).1
    rw [stepsLeft]
    omega

/-- With nothing scheduled, an operation ends within the steps it has left. -/
theorem run_ends {i : Instr} {p : Packet} {n : Nat} {s : State} {k : Nat} {f : Option TxEvent} (h : BlockInv s)
    (hfont : s.build.font.Conforming) (hin : s.inputs = []) (hseq : s.seq = .exec p k f)
    (hdec : decode s.build.variant p.bytes p.povf = .ok i) (hn : stepsLeft (eventList i s) k f ≤ n) :
    ∃ m t, Host.Core.run core m s = .next t ∧ t.seq = .idle ∧ 1 ≤ m ∧ m ≤ n := by
  have hi : Executing s i := ⟨p, k, f, hseq, hdec⟩
  induction n generalizing s k f with
  | zero => exact absurd (stepsLeft_pos (h.on_list hi hseq).2) hn.not_gt
  | succ n ih =>
    obtain ⟨t, hexec⟩ := exec_isNext (i := i) (s := s) fun _ => hfont
    have hstep : step s = .next t := by rw [step_of_no_input hin, sequencerTurn_of_executing hi, hexec]
    obtain hidle | ⟨hinputs, hbuild, hfb, hpwr, k', f', hseq', hfewer⟩ := exec_ends_or_advances h hi hseq hexec
    · exact ⟨1, t, run_succ_of_step hstep 0, hidle, le_rfl, by omega⟩
    · have hdec' : decode t.build.variant p.bytes p.povf = .ok i := by rw [hbuild, hdec]
      have hleft : stepsLeft (eventList i t) k' f' ≤ n := by
        rw [eventList_congr hbuild hfb hpwr]
        omega
      obtain ⟨m, u, hrun, hidle, -, hm⟩ := ih (exec_keeps_inv h hi hexec) (by rwa [hbuild]) (hinputs.trans hin) hseq' hdec'
        hleft ⟨p, k', f', hseq', hdec'⟩
      exact ⟨m + 1, u, (run_succ_of_step hstep m).trans hrun, hidle, by omega, by omega⟩

/-- Settles O60: a packet that does not decode ends in one step, an operation within the steps it has left, which are most before
its first event. -/
theorem everyOperationEnds : Obligations.EveryOperationEnds := by
  intro s p k f h hfont hin hseq
  cases hdec : decode s.build.variant p.bytes p.povf with
  | error c =>
    have hstep : step s = .next (s.raise c) := by rw [step_of_no_input hin, sequencerTurn_of_decode_error hseq hdec]
    exact ⟨1, _, run_succ_of_step hstep 0, State.raise_seq .., le_rfl, nofun⟩
  | ok i =>
    have hmost : stepsLeft (eventList i s) k f ≤ 2 * (eventList i s).length + 1 := by
      rw [stepsLeft]
      split <;> omega
    obtain ⟨m, t, hrun, hidle, hpos, hm⟩ := run_ends h hfont hin hseq hdec hmost
    refine ⟨m, t, hrun, hidle, hpos, fun j hj => ?_⟩
    cases hj
    exact hm

end Sys2Proof.Machine
end

section
/-!
PROOFS. Lines, rectangles, filled circles and triangle outlines (42_rasterizer.md rules R221 to R226, R229, R231). A line is given by
its driving coordinate: `lineRight_eq` says the other coordinate at each.
-/

namespace Sys2Proof.Machine

/-! ### A line by its driving coordinate -/

/-- How many steps R222's loop has taken on the other axis after `n` rounds from error `err`. -/
def stepsTaken (dx dy err : Int) (n : Nat) : Int := -((err - n * dy) / dx)

theorem stepsTaken_zero {dx err : Int} (h : 0 ≤ err) (herr : err < dx) (dy : Int) : stepsTaken dx dy err 0 = 0 := by
  rw [stepsTaken, Nat.cast_zero, zero_mul, sub_zero, Int.ediv_eq_zero_of_lt h herr, neg_zero]

theorem stepsTaken_succ (dx dy err : Int) (n : Nat) : stepsTaken dx dy err (n + 1) = stepsTaken dx dy (err - dy) n := by
  rw [stepsTaken, stepsTaken]
  congr 2
  push_cast
  ring

/-- A round that steps has added `dx` to the error term. -/
theorem stepsTaken_add {dx : Int} (h : dx ≠ 0) (dy err : Int) (n : Nat) :
    stepsTaken dx dy (err + dx) n = stepsTaken dx dy err n - 1 := by
  rw [stepsTaken, stepsTaken, add_sub_right_comm, Int.add_ediv_of_dvd_right dvd_rfl, Int.ediv_self h]
  ring

/-- The point of round `k` of R222's loop. -/
def walkPoint (steep : Bool) (dx dy ystep x y err : Int) (k : Nat) : Point :=
  unsteep steep (x + k) (y + ystep * stepsTaken dx dy err k)

theorem walkPoint_zero {dx err : Int} (h : 0 ≤ err) (herr : err < dx) (steep : Bool) (dy ystep x y : Int) :
    walkPoint steep dx dy ystep x y err 0 = unsteep steep x y := by
  simp [walkPoint, stepsTaken_zero h herr]

/-- After a round that steps the walk goes on one column and one row further. -/
theorem walkPoint_succ_of_step {dx : Int} (h : dx ≠ 0) (steep : Bool) (dy ystep x y err : Int) (k : Nat) :
    walkPoint steep dx dy ystep (x + 1) (y + ystep) (err - dy + dx) k = walkPoint steep dx dy ystep x y err (k + 1) := by
  rw [walkPoint, walkPoint, stepsTaken_add h, stepsTaken_succ]
  congr 1
  · push_cast
    ring
  · ring

/-- After a round that does not step it goes on one column further. -/
theorem walkPoint_succ_of_no_step (steep : Bool) (dx dy ystep x y err : Int) (k : Nat) :
    walkPoint steep dx dy ystep (x + 1) y (err - dy) k = walkPoint steep dx dy ystep x y err (k + 1) := by
  rw [walkPoint, walkPoint, stepsTaken_succ]
  congr 1
  push_cast
  ring

theorem lineWalk_eq {steep : Bool} {dx dy ystep : Int} (hdy : 0 ≤ dy) (hle : dy ≤ dx) {n : Nat} {x y err : Int} (h : 0 ≤ err)
    (herr : err < dx) : lineWalk steep dx dy ystep n x y err = (List.range n).map (walkPoint steep dx dy ystep x y err) := by
  induction n generalizing x y err with
  | zero => rfl
  | succ n ih =>
    have hdx : dx ≠ 0 := by omega
    rw [lineWalk, List.range_succ_eq_map, List.map_cons, List.map_map, walkPoint_zero h herr]
    congr 1
    split
    case isTrue hstep =>
      rw [ih (by omega) (by omega)]
      exact List.map_congr_left fun k _ => walkPoint_succ_of_step hdx ..
    case isFalse hstep =>
      rw [ih (by omega) (by omega)]
      exact List.map_congr_left fun k _ => walkPoint_succ_of_no_step ..

/-- The row of a line that runs from (x0, y0) right to (x1, y1), `k` columns on (R222). -/
def lineRow (x0 y0 x1 y1 : Int) (k : Nat) : Int :=
  y0 + (if y0 < y1 then 1 else -1) * stepsTaken (x1 - x0) |y1 - y0| ((x1 - x0) / 2) k

/-- A line that runs left to right has one point in each column. -/
theorem lineRight_eq {steep : Bool} {x0 y0 x1 y1 : Int} (hx : x0 ≤ x1) (hy : |y1 - y0| ≤ x1 - x0) :
    lineRight steep x0 y0 x1 y1 =
      (List.range (x1 - x0 + 1).toNat).map fun k : Nat => unsteep steep (x0 + (k : Int)) (lineRow x0 y0 x1 y1 k) := by
  obtain rfl | hlt := hx.eq_or_lt
  · simp [lineRight, lineWalk, lineRow, stepsTaken, unsteep]
  · exact lineWalk_eq (abs_nonneg _) hy (by omega) (by omega)

theorem lineRow_first {x0 x1 : Int} (hx : x0 ≤ x1) (y0 y1 : Int) : lineRow x0 y0 x1 y1 0 = y0 := by
  obtain rfl | hlt := hx.eq_or_lt
  · simp [lineRow, stepsTaken]
  · rw [lineRow, stepsTaken_zero (by omega) (by omega), mul_zero, add_zero]

/-- Over the whole width every step there is has been taken. -/
theorem stepsTaken_last {dx : Int} (hdx : 0 < dx) (dy : Int) : stepsTaken dx dy (dx / 2) dx.toNat = dy := by
  rw [stepsTaken, Int.toNat_of_nonneg hdx.le, sub_eq_add_neg, ← mul_neg, Int.add_mul_ediv_left _ _ hdx.ne',
    Int.ediv_eq_zero_of_lt (by omega) (by omega), zero_add, neg_neg]

theorem lineRow_last {x0 y0 x1 y1 : Int} (hx : x0 ≤ x1) (hy : |y1 - y0| ≤ x1 - x0) :
    lineRow x0 y0 x1 y1 (x1 - x0).toNat = y1 := by
  obtain rfl | hlt := hx.eq_or_lt
  · rw [sub_self] at hy
    obtain rfl : y1 = y0 := sub_eq_zero.1 (abs_nonpos_iff.1 hy)
    simp [lineRow, stepsTaken]
  · rw [lineRow, stepsTaken_last (sub_pos.2 hlt)]
    split
    · rw [abs_of_nonneg (by omega)]
      ring
    · rw [abs_of_nonpos (by omega)]
      ring

/-- A round takes one step or none. -/
theorem stepsTaken_succ_bounds {dx dy : Int} (hdy : 0 ≤ dy) (hle : dy ≤ dx) (err : Int) (k : Nat) :
    stepsTaken dx dy err k ≤ stepsTaken dx dy err (k + 1) ∧ stepsTaken dx dy err (k + 1) ≤ stepsTaken dx dy err k + 1 := by
  obtain rfl | hdx := (hdy.trans hle).eq_or_lt
  · simp [stepsTaken]
  · have hround : err - ((k + 1 : Nat) : Int) * dy = err - k * dy - dy := by
      push_cast
      ring
    have hwhole : (err - k * dy - dx) / dx = (err - k * dy) / dx - 1 := by
      simpa using Int.sub_mul_ediv_right (err - k * dy) 1 hdx.ne'
    have hle' := Int.ediv_le_ediv hdx (sub_le_self (err - k * dy) hdy)
    have hge := Int.ediv_le_ediv hdx (sub_le_sub_left hle (err - k * dy))
    rw [stepsTaken, stepsTaken, hround]
    omega

/-- From one column to the next the row moves by at most 1 (R224 (c)). -/
theorem lineRow_succ {x0 y0 x1 y1 : Int} (hy : |y1 - y0| ≤ x1 - x0) (k : Nat) :
    |lineRow x0 y0 x1 y1 (k + 1) - lineRow x0 y0 x1 y1 k| ≤ 1 := by
  obtain ⟨hlo, hhi⟩ := stepsTaken_succ_bounds (abs_nonneg (y1 - y0)) hy ((x1 - x0) / 2) k
  rw [lineRow, lineRow, abs_le]
  split <;> constructor <;> linarith

/-! ### Lines between any two points -/

/-- The endpoint swap leaves a line that runs left to right between the same ends (R222). -/
theorem lineOrdered_right (steep : Bool) {x0 y0 x1 y1 : Int} (hy : |y1 - y0| ≤ |x1 - x0|) :
    ∃ a b c d, a ≤ c ∧ |d - b| ≤ c - a ∧ lineOrdered steep x0 y0 x1 y1 = lineRight steep a b c d ∧
      (a = x0 ∧ b = y0 ∧ c = x1 ∧ d = y1 ∨ a = x1 ∧ b = y1 ∧ c = x0 ∧ d = y0) := by
  rw [lineOrdered]
  split
  case isTrue h =>
    rw [abs_sub_comm y1, abs_sub_comm x1, abs_of_pos (sub_pos.2 h)] at hy
    exact ⟨x1, y1, x0, y0, h.le, hy, rfl, .inr ⟨rfl, rfl, rfl, rfl⟩⟩
  case isFalse h =>
    rw [abs_of_nonneg (sub_nonneg.2 (not_lt.1 h))] at hy
    exact ⟨x0, y0, x1, y1, not_lt.1 h, hy, rfl, .inl ⟨rfl, rfl, rfl, rfl⟩⟩

/-- What the points of the line from `p` to `q` are, by their number: the line runs left to right along its driving axis, from
(x0, y0) to (x1, y1), which are the ends in one of the two orders. -/
structure RunsRight (p q : Point) (steep : Bool) (x0 y0 x1 y1 : Int) : Prop where
  rightward : x0 ≤ x1
  flat : |y1 - y0| ≤ x1 - x0
  line : linePoints p q = lineRight steep x0 y0 x1 y1
  ends : p = unsteep steep x0 y0 ∧ q = unsteep steep x1 y1 ∨ q = unsteep steep x0 y0 ∧ p = unsteep steep x1 y1

theorem runsRight_of_steep {p q : Point} (h : |q.1 - p.1| < |q.2 - p.2|) : ∃ x0 y0 x1 y1, RunsRight p q true x0 y0 x1 y1 := by
  obtain ⟨a, b, c, d, hac, hbd, hline, hends⟩ := lineOrdered_right true h.le
  refine ⟨a, b, c, d, hac, hbd, by rw [linePoints, if_pos h, hline], ?_⟩
  obtain ⟨rfl, rfl, rfl, rfl⟩ | ⟨rfl, rfl, rfl, rfl⟩ := hends
  · exact .inl ⟨rfl, rfl⟩
  · exact .inr ⟨rfl, rfl⟩

theorem runsRight_of_not_steep {p q : Point} (h : |q.2 - p.2| ≤ |q.1 - p.1|) :
    ∃ x0 y0 x1 y1, RunsRight p q false x0 y0 x1 y1 := by
  obtain ⟨a, b, c, d, hac, hbd, hline, hends⟩ := lineOrdered_right false h
  refine ⟨a, b, c, d, hac, hbd, by rw [linePoints, if_neg h.not_gt, hline], ?_⟩
  obtain ⟨rfl, rfl, rfl, rfl⟩ | ⟨rfl, rfl, rfl, rfl⟩ := hends
  · exact .inl ⟨rfl, rfl⟩
  · exact .inr ⟨rfl, rfl⟩

theorem exists_runsRight (p q : Point) : ∃ steep x0 y0 x1 y1, RunsRight p q steep x0 y0 x1 y1 :=
  (lt_or_ge |q.1 - p.1| |q.2 - p.2|).elim (fun h => ⟨true, runsRight_of_steep h⟩) fun h => ⟨false, runsRight_of_not_steep h⟩

section
variable {p q : Point} {steep : Bool} {x0 y0 x1 y1 : Int}

theorem RunsRight.points (h : RunsRight p q steep x0 y0 x1 y1) :
    linePoints p q =
      (List.range (x1 - x0 + 1).toNat).map fun k : Nat => unsteep steep (x0 + (k : Int)) (lineRow x0 y0 x1 y1 k) := by
  rw [h.line, lineRight_eq h.rightward h.flat]

theorem RunsRight.eq_of_getElem? (h : RunsRight p q steep x0 y0 x1 y1) {k : Nat} {u : Point} (hu : (linePoints p q)[k]? = some u) :
    u = unsteep steep (x0 + k) (lineRow x0 y0 x1 y1 k) := by
  rw [h.points, List.getElem?_map] at hu
  obtain ⟨j, hj, rfl⟩ := Option.map_eq_some_iff.1 hu
  obtain ⟨-, rfl⟩ := List.getElem?_eq_some_iff.1 hj
  rw [List.getElem_range]

/-- A line has a point in each column of its driving axis. -/
theorem RunsRight.mem_of_column (h : RunsRight p q steep x0 y0 x1 y1) {x : Int} (hx : x0 ≤ x ∧ x ≤ x1) :
    unsteep steep x (lineRow x0 y0 x1 y1 (x - x0).toNat) ∈ linePoints p q := by
  rw [h.points, List.mem_map]
  refine ⟨(x - x0).toNat, List.mem_range.2 (by omega), ?_⟩
  congr 1
  omega

theorem RunsRight.first_mem (h : RunsRight p q steep x0 y0 x1 y1) : unsteep steep x0 y0 ∈ linePoints p q := by
  have hmem := h.mem_of_column ⟨le_rfl, h.rightward⟩
  rwa [sub_self, Int.toNat_zero, lineRow_first h.rightward] at hmem

theorem RunsRight.last_mem (h : RunsRight p q steep x0 y0 x1 y1) : unsteep steep x1 y1 ∈ linePoints p q := by
  have hmem := h.mem_of_column ⟨h.rightward, le_rfl⟩
  rwa [lineRow_last h.rightward h.flat] at hmem

end

theorem left_mem_linePoints (p q : Point) : p ∈ linePoints p q := by
  obtain ⟨steep, x0, y0, x1, y1, h⟩ := exists_runsRight p q
  obtain ⟨hp, -⟩ | ⟨-, hp⟩ := h.ends
  · exact hp ▸ h.first_mem
  · exact hp ▸ h.last_mem

theorem RunsRight.width {p q : Point} {steep : Bool} {x0 y0 x1 y1 : Int} (h : RunsRight p q steep x0 y0 x1 y1) :
    max |q.1 - p.1| |q.2 - p.2| = x1 - x0 := by
  obtain ⟨hx, hy, -, ⟨rfl, rfl⟩ | ⟨rfl, rfl⟩⟩ := h
  all_goals
    rw [abs_eq_max_neg] at hy
    cases steep <;> simp only [unsteep, abs_eq_max_neg, if_true, Bool.false_eq_true, if_false] <;> omega

theorem linePoints_length (p q : Point) : ((linePoints p q).length : Int) = max |q.1 - p.1| |q.2 - p.2| + 1 := by
  obtain ⟨steep, x0, y0, x1, y1, h⟩ := exists_runsRight p q
  have hx := h.rightward
  rw [h.points, h.width, List.length_map, List.length_range, Int.toNat_of_nonneg (by omega)]

theorem linePoints_self (p : Point) : linePoints p p = [p] := by
  have hlen := linePoints_length p p
  simp only [sub_self, abs_zero, max_self, zero_add] at hlen
  obtain ⟨u, hu⟩ := List.length_eq_one_iff.1 (by exact_mod_cast hlen)
  have hp := left_mem_linePoints p p
  rw [hu, List.mem_singleton] at hp
  rw [hu, hp]

/-- Settles O31: the first and the last column are the ends, and the line has one point in each column between. -/
theorem lineEndpointsAndSymmetry : Obligations.LineEndpointsAndSymmetry := fun p q =>
  ⟨left_mem_linePoints p q, linePoints_comm q p ▸ left_mem_linePoints q p, linePoints_comm p q, linePoints_length p q,
    linePoints_self p⟩

/-- Settles O32: the next point is in the next column, and `lineRow_succ` says how far its row is. -/
theorem lineIsConnected : Obligations.LineIsConnected := by
  intro p q u w k hu hw
  refine ⟨fun hsteep => ?_, fun hflat => ?_⟩
  · obtain ⟨x0, y0, x1, y1, h⟩ := runsRight_of_steep hsteep
    rw [h.eq_of_getElem? hu, h.eq_of_getElem? hw]
    exact ⟨by simp [unsteep, add_assoc], lineRow_succ h.flat k⟩
  · obtain ⟨x0, y0, x1, y1, h⟩ := runsRight_of_not_steep hflat
    rw [h.eq_of_getElem? hu, h.eq_of_getElem? hw]
    exact ⟨by simp [unsteep, add_assoc], lineRow_succ h.flat k⟩

/-! ### Straight lines -/

theorem exists_mem_column {p q : Point} (h : |q.2 - p.2| ≤ |q.1 - p.1|) {x : Int} (hx : Between p.1 q.1 x) :
    ∃ y, (x, y) ∈ linePoints p q := by
  obtain ⟨x0, y0, x1, y1, hline⟩ := runsRight_of_not_steep h
  refine ⟨_, hline.mem_of_column ?_⟩
  unfold Between at hx
  obtain ⟨hx01, -, -, ⟨rfl, rfl⟩ | ⟨rfl, rfl⟩⟩ := hline
  all_goals
    simp only [unsteep, Bool.false_eq_true, if_false] at hx
    omega

theorem exists_mem_row {p q : Point} (h : |q.1 - p.1| < |q.2 - p.2|) {y : Int} (hy : Between p.2 q.2 y) :
    ∃ x, (x, y) ∈ linePoints p q := by
  obtain ⟨x0, y0, x1, y1, hline⟩ := runsRight_of_steep h
  refine ⟨_, hline.mem_of_column (x := y) ?_⟩
  unfold Between at hy
  obtain ⟨hx01, -, -, ⟨rfl, rfl⟩ | ⟨rfl, rfl⟩⟩ := hline
  all_goals
    simp only [unsteep, if_true] at hy
    omega

/-- A horizontal line is its span (R224 (d)). -/
theorem mem_linePoints_horizontal {p q u : Point} (h : p.2 = q.2) : u ∈ linePoints p q ↔ u.2 = p.2 ∧ Between p.1 q.1 u.1 := by
  refine ⟨fun hu => ?_, fun ⟨hrow, hx⟩ => ?_⟩
  · obtain ⟨hx, hy⟩ := linePoints_in_box hu
    unfold Between at hy
    exact ⟨by omega, hx⟩
  · obtain ⟨y, hmem⟩ := exists_mem_column (by simp [h]) hx
    obtain ⟨-, hy⟩ := linePoints_in_box hmem
    obtain rfl : y = u.2 := by
      simp only [Between] at hy
      omega
    exact hmem

/-- A vertical line is its span (R224 (d)). -/
theorem mem_linePoints_vertical {p q u : Point} (h : p.1 = q.1) : u ∈ linePoints p q ↔ u.1 = p.1 ∧ Between p.2 q.2 u.2 := by
  refine ⟨fun hu => ?_, fun ⟨hcol, hy⟩ => ?_⟩
  · obtain ⟨hx, hy⟩ := linePoints_in_box hu
    unfold Between at hx
    exact ⟨by omega, hy⟩
  · obtain hpoint | hlong := eq_or_ne p.2 q.2
    · refine (mem_linePoints_horizontal hpoint).2 ?_
      unfold Between at *
      omega
    · obtain ⟨x, hmem⟩ := exists_mem_row (by simpa [h, sub_eq_zero] using hlong.symm) hy
      obtain ⟨hx, -⟩ := linePoints_in_box hmem
      obtain rfl : x = u.1 := by
        simp only [Between] at hx
        omega
      exact hmem

theorem stepsTaken_diagonal {dx : Int} (h : 0 < dx) (k : Nat) : stepsTaken dx dx (dx / 2) k = k := by
  rw [stepsTaken, Int.sub_mul_ediv_right _ _ h.ne', Int.ediv_eq_zero_of_lt (by omega) (by omega)]
  ring

/-- On a 45° line each column is a step (R224 (d)). -/
theorem lineRow_diagonal {x0 y0 x1 y1 : Int} (hx : x0 ≤ x1) (h : |y1 - y0| = x1 - x0) {k : Nat} (hk : k ≤ x1 - x0) :
    lineRow x0 y0 x1 y1 k = y0 + (if y0 < y1 then 1 else -1) * k := by
  obtain rfl | hlt := hx.eq_or_lt
  · obtain rfl : k = 0 := by omega
    simp [lineRow, stepsTaken]
  · rw [lineRow, h, stepsTaken_diagonal (by omega)]

theorem abs_eq_of_slope {dx dy slope : Int} (hslope : slope = 1 ∨ slope = -1) (h : dy = slope * dx) : |dy| = |dx| := by
  obtain rfl | rfl := hslope <;> simp [h]

theorem linePoints_diagonal {p q u : Point} {slope : Int} (hslope : slope = 1 ∨ slope = -1) (h : q.2 - p.2 = slope * (q.1 - p.1))
    (hu : u ∈ linePoints p q) : u.2 - p.2 = slope * (u.1 - p.1) := by
  have habs := abs_eq_of_slope hslope h
  obtain ⟨x0, y0, x1, y1, hline⟩ := runsRight_of_not_steep habs.le
  rw [hline.points, List.mem_map] at hu
  obtain ⟨k, hk, rfl⟩ := hu
  rw [List.mem_range] at hk
  have hk : (k : Int) ≤ x1 - x0 := by omega
  obtain ⟨hx, -, -, ⟨rfl, rfl⟩ | ⟨rfl, rfl⟩⟩ := hline
  all_goals
    simp only [unsteep, Bool.false_eq_true, if_false] at h habs ⊢
    have hwidth : |y1 - y0| = x1 - x0 := by
      rw [abs_eq_max_neg, abs_eq_max_neg] at *
      omega
    rw [lineRow_diagonal hx hwidth hk]
    obtain rfl | rfl := hslope <;> split <;> omega

/-- A 45° line is its diagonal (R224 (d)). -/
theorem mem_linePoints_diagonal {p q u : Point} {slope : Int} (hslope : slope = 1 ∨ slope = -1)
    (h : q.2 - p.2 = slope * (q.1 - p.1)) : u ∈ linePoints p q ↔ u.2 - p.2 = slope * (u.1 - p.1) ∧ Between p.1 q.1 u.1 := by
  refine ⟨fun hu => ⟨linePoints_diagonal hslope h hu, (linePoints_in_box hu).1⟩, fun ⟨hdiag, hx⟩ => ?_⟩
  have habs := abs_eq_of_slope hslope h
  obtain ⟨y, hmem⟩ := exists_mem_column habs.le hx
  obtain rfl : y = u.2 := sub_left_injective ((linePoints_diagonal hslope h hmem).trans hdiag.symm)
  exact hmem

/-- Settles O33: the four kinds of line, each by its lemma. -/
theorem straightLinesAreExact : Obligations.StraightLinesAreExact := by
  refine fun p q u => ⟨mem_linePoints_horizontal, mem_linePoints_vertical, fun h => ?_, fun h => ?_⟩
  · rw [mem_linePoints_diagonal (.inl rfl) (by omega)]
    exact and_congr_left fun _ => by omega
  · rw [mem_linePoints_diagonal (.inr rfl) (by omega)]
    exact and_congr_left fun _ => by omega

/-! ### Rectangles -/

theorem mem_linePoints_row {x x' y : Int} {u : Point} : u ∈ linePoints (x, y) (x', y) ↔ u.2 = y ∧ Between x x' u.1 :=
  mem_linePoints_horizontal rfl

theorem mem_linePoints_column {x y y' : Int} {u : Point} : u ∈ linePoints (x, y) (x, y') ↔ u.1 = x ∧ Between y y' u.2 :=
  mem_linePoints_vertical rfl

/-- Settles O34: the four edges are two rows and two columns of the box. -/
theorem rectIsBoxBoundary : Obligations.RectIsBoxBoundary := by
  intro p q u
  simp only [rectPoints, List.mem_append, mem_linePoints_row, mem_linePoints_column, Between]
  omega

theorem intRange_nodup (a b : Int) : (intRange a b).Nodup := by
  rw [intRange_eq_map]
  refine List.nodup_range.map fun j k hjk => ?_
  omega

theorem intRange_length (a b : Int) : (intRange a b).length = (b - a + 1).toNat := by
  rw [intRange_eq_map, List.length_map, List.length_range]

theorem max_sub_min_eq_abs_sub (a b : Int) : max a b - min a b = |b - a| := by
  rw [abs_eq_max_neg]
  omega

theorem hSpan_nodup (xa xb y : Int) : (hSpan xa xb y).Nodup :=
  (intRange_nodup ..).map fun _ _ h => congrArg Prod.fst h

theorem hSpan_length (xa xb y : Int) : ((hSpan xa xb y).length : Int) = |xb - xa| + 1 := by
  rw [hSpan, List.length_map, intRange_length, max_sub_min_eq_abs_sub, Int.toNat_of_nonneg (by positivity)]

theorem mem_fillRectPoints {p q u : Point} : u ∈ fillRectPoints p q ↔ Between p.1 q.1 u.1 ∧ Between p.2 q.2 u.2 := by
  simp only [fillRectPoints, List.mem_flatMap, mem_intRange, mem_hSpan]
  constructor
  · rintro ⟨y, hy, hx, rfl⟩
    exact ⟨hx, hy⟩
  · rintro ⟨hx, hy⟩
    exact ⟨u.2, hy, hx, rfl⟩

theorem fillRectPoints_nodup (p q : Point) : (fillRectPoints p q).Nodup := by
  refine List.nodup_flatMap.2 ⟨fun y _ => hSpan_nodup .., (intRange_nodup ..).imp fun {y y'} hne u hu hu' => hne ?_⟩
  rw [← (mem_hSpan.1 hu).2, ← (mem_hSpan.1 hu').2]

theorem fillRectPoints_length (p q : Point) : ((fillRectPoints p q).length : Int) = (|q.1 - p.1| + 1) * (|q.2 - p.2| + 1) := by
  have hrow : ∀ y, (hSpan p.1 q.1 y).length = (|q.1 - p.1| + 1).toNat := fun y => by
    rw [← hSpan_length p.1 q.1 y, Int.toNat_natCast]
  simp only [fillRectPoints, List.length_flatMap, hrow, List.map_const', List.sum_replicate, intRange_length,
    max_sub_min_eq_abs_sub, smul_eq_mul, Nat.cast_mul]
  rw [Int.toNat_of_nonneg (by positivity), Int.toNat_of_nonneg (by positivity), mul_comm]

/-- Settles O35: a row for each height of the box, each row once, with a point for each column. -/
theorem fillRectIsBox : Obligations.FillRectIsBox := fun p q =>
  ⟨fun _ => mem_fillRectPoints, fillRectPoints_nodup p q, fillRectPoints_length p q⟩

/-! ### Filled circles -/

/-- The four spans of a step are the points no further from the centre's axes than the step, on its four rows (R229). -/
theorem mem_circleSpans_iff {c p : Point} (u v : Int) (h1 : 0 ≤ p.1) (h2 : 0 ≤ p.2) :
    (c.1 + u, c.2 + v) ∈ circleSpans c p ↔ |u| ≤ p.1 ∧ |v| = p.2 ∨ |u| ≤ p.2 ∧ |v| = p.1 := by
  simp only [circleSpans, List.mem_append, mem_hSpan, Between, abs_le, abs_eq h1, abs_eq h2]
  omega

theorem mem_fillCirclePoints_iff {c : Point} {r : Nat} (u v : Int) :
    (c.1 + u, c.2 + v) ∈ fillCirclePoints c r ↔
      ∃ p ∈ circleSteps r, |u| ≤ p.1 ∧ |v| = p.2 ∨ |u| ≤ p.2 ∧ |v| = p.1 := by
  rw [fillCirclePoints, List.mem_flatMap]
  refine exists_congr fun p => and_congr_right fun hp => ?_
  obtain ⟨hx, hxy, -⟩ := mem_circleSteps_bounds hp
  exact mem_circleSpans_iff u v hx (hx.trans hxy)

theorem mem_fillCirclePoints_zero_iff {c u : Point} : u ∈ fillCirclePoints c 0 ↔ u = c := by
  simp only [fillCirclePoints, circleSteps_zero, List.flatMap_cons, List.flatMap_nil, List.append_nil, circleSpans, List.mem_append,
    mem_hSpan, Between, Prod.ext_iff]
  omega

/-- A point no further from the centre's column than one of the circle on its row is in the filled circle. -/
theorem mem_fillCirclePoints_of_abs_le {c : Point} {r : Nat} {u u' v : Int} (h : (c.1 + u', c.2 + v) ∈ circlePoints c r)
    (hle : |u| ≤ |u'|) : (c.1 + u, c.2 + v) ∈ fillCirclePoints c r := by
  obtain ⟨p, hp, hdist⟩ := (mem_circlePoints_iff u' v).1 h
  exact (mem_fillCirclePoints_iff u v).2 ⟨p, hp, by omega⟩

theorem mem_fillCirclePoints_of_mem {c u : Point} {r : Nat} (h : u ∈ circlePoints c r) : u ∈ fillCirclePoints c r := by
  have hmem := mem_fillCirclePoints_of_abs_le (c := c) (u := u.1 - c.1) (v := u.2 - c.2) (by simpa using h) le_rfl
  simpa using hmem

theorem mem_fillCirclePoints_of_between {c : Point} {r : Nat} {xa xb x y : Int} (ha : (xa, y) ∈ circlePoints c r)
    (hb : (xb, y) ∈ circlePoints c r) (hx : Between xa xb x) : (x, y) ∈ fillCirclePoints c r := by
  have hcloser : |x - c.1| ≤ |xa - c.1| ∨ |x - c.1| ≤ |xb - c.1| := by
    simp only [Between, abs_eq_max_neg] at hx ⊢
    omega
  obtain hle | hle := hcloser
  · simpa using mem_fillCirclePoints_of_abs_le (c := c) (v := y - c.2) (by simpa using ha) hle
  · simpa using mem_fillCirclePoints_of_abs_le (c := c) (v := y - c.2) (by simpa using hb) hle

/-- Settles O37: a point's row and its distance from the centre's column decide, and between two points none is further out. -/
theorem filledCircleContainsCircle : Obligations.FilledCircleContainsCircle := fun _ _ =>
  ⟨fun _ => mem_fillCirclePoints_zero_iff, fun _ => mem_fillCirclePoints_of_mem, fun _ _ _ _ => mem_fillCirclePoints_of_between⟩

/-! ### Triangle outlines -/

/-- Settles O40: each edge is the same from either end, and on a row each is its span. -/
theorem triangleOutlineProperties : Obligations.TriangleOutlineProperties := by
  intro a b c u
  refine ⟨?swap, ?cycle, ?point, fun hab hbc => ?row⟩
  case swap =>
    rw [mem_trianglePoints, mem_trianglePoints, linePoints_comm b a, linePoints_comm a c, linePoints_comm c b,
      or_comm (a := u ∈ linePoints b c)]
  case cycle => rw [mem_trianglePoints, mem_trianglePoints, or_rotate (a := u ∈ linePoints a b)]
  case point => simp [mem_trianglePoints, linePoints_self]
  case row =>
    rw [mem_trianglePoints, mem_linePoints_horizontal hab, mem_linePoints_horizontal hbc,
      mem_linePoints_horizontal (hab.trans hbc).symm]
    unfold Between
    omega

end Sys2Proof.Machine
end
